-- ==== Sys2Proof/Word.lean ====
section
/-! DEFINITION. The words of the core: 8-bit bytes and the 16-bit fields of host packets (00_scope.md R7, R8). -/

namespace Sys2Proof

/-- A byte: a framebuffer byte, a register, a packet byte, a status code (R7). -/
abbrev Byte := BitVec 8

/-- A 16-bit packet field: a coordinate or size (read as two's complement) or an index (R7, R71). -/
abbrev Half := BitVec 16

end Sys2Proof
end

