-- ==== Sys2Proof/Syntax.lean ====
section
/-! DEFINITION. The thirteen commands of the host port (30_encoding.md R72, R73), operands decoded. -/

namespace Sys2Proof

/-- One constructor per row of spec/opcode_table.json. Coordinates and sizes are s16 fields, read as
two's complement by the meanings (R74); `on` is decoded (0x00 clear, 0x01 set); the counts `ncols` and
`len` are the lengths of the lists. -/
inductive Instr where
  /-- OPEN (R180). -/
  | cmdOpen
  /-- INIT (R182). -/
  | cmdInit
  /-- FLUSH (R185). -/
  | cmdFlush
  /-- CLOSE (R190). -/
  | cmdClose
  /-- CLEAR (R103). -/
  | clear
  /-- SET_PIXEL (R104). -/
  | setPixel (x y : Half) (on : Bool)
  /-- FILL_RECT (R105). -/
  | fillRect (x y w h : Half) (on : Bool)
  /-- DRAW_LINE (R130). -/
  | drawLine (x0 y0 x1 y1 : Half) (on : Bool)
  /-- DRAW_CIRCLE (R132). -/
  | drawCircle (cx cy r : Half) (on : Bool)
  /-- DRAW_GLYPH (R134). -/
  | drawGlyph (x y : Half) (on : Bool) (cols : List Byte)
  /-- DRAW_TEXT (R135). -/
  | drawText (x y : Half) (scale : Byte) (chars : List Byte)
  /-- READ_BYTE (R106). -/
  | readByte (index : Half)
  /-- READ_REG (R195). -/
  | readReg (reg : Byte)
deriving DecidableEq, Repr

end Sys2Proof
end

