-- ==== Sys2Proof/WellFormed.lean ====
section
/-! DEFINITION. The commands a host packet can encode (30_encoding.md R74, R77). -/

namespace Sys2Proof

/-- The checks of R74 and R77 that the types do not already make: ncols is 5 or 6, scale is not 0 and
len is at most 255. exec also answers for a command that fails them (log 18: DESIGN CHOICE). -/
def Instr.wf : Instr → Bool
  | .cmdOpen => true
  | .cmdInit => true
  | .cmdFlush => true
  | .cmdClose => true
  | .clear => true
  | .setPixel _ _ _ => true
  | .fillRect _ _ _ _ _ => true
  | .drawLine _ _ _ _ _ => true
  | .drawCircle _ _ _ _ => true
  | .drawGlyph _ _ _ cols => cols.length == 5 || cols.length == 6
  | .drawText _ _ scale chars => scale != 0 && decide (chars.length ≤ 255)
  | .readByte _ => true
  | .readReg _ => true

end Sys2Proof
end

