-- ==== Sys2Proof/Decode.lean ====
section
/-! DEFINITION. Decoding a host packet (30_encoding.md R70 to R77, 60_exceptions.md R221), and the
encoder, written from the same tables. -/

namespace Sys2Proof

/-- The thirteen opcodes of R72. -/
inductive Opcode where
  | cmdOpen | cmdInit | cmdFlush | cmdClose
  | clear | setPixel | fillRect | drawLine | drawCircle | drawGlyph | drawText
  | readByte | readReg
deriving DecidableEq, Repr

/-- Why a packet is illegal: the conditions of R221, in its order. Each gives ILLEGAL_COMMAND. -/
inductive DecodeError where
  /-- n = 0. -/
  | emptyPacket
  /-- P[0] is reserved (R76). -/
  | reservedOpcode
  /-- DRAW_GLYPH or DRAW_TEXT with n < 7: no count byte. -/
  | noCountByte
  /-- n differs from the length of R73 (R75). -/
  | wrongLength
  /-- on is neither 0x00 nor 0x01 (R77). -/
  | reservedOn
  /-- ncols is neither 5 nor 6 (R77). -/
  | reservedColumnCount
  /-- scale is 0 (R77). -/
  | reservedScale
deriving DecidableEq, Repr

/-- The opcode map of R72. -/
def Opcode.code : Opcode → Byte
  | .cmdOpen => 0x01
  | .cmdInit => 0x02
  | .cmdFlush => 0x03
  | .cmdClose => 0x04
  | .clear => 0x10
  | .setPixel => 0x11
  | .fillRect => 0x12
  | .drawLine => 0x13
  | .drawCircle => 0x14
  | .drawGlyph => 0x15
  | .drawText => 0x16
  | .readByte => 0x20
  | .readReg => 0x21

/-- The rows of R72's map, in its order. -/
def Opcode.all : List Opcode :=
  [.cmdOpen, .cmdInit, .cmdFlush, .cmdClose, .clear, .setPixel, .fillRect, .drawLine, .drawCircle,
   .drawGlyph, .drawText, .readByte, .readReg]

/-- The opcode of a byte; none where the value is reserved (R76). -/
def Opcode.ofByte? (b : Byte) : Option Opcode :=
  Opcode.all.find? (fun o => o.code == b)

/-- The two packets whose length their count byte, at offset 6, decides (R75). -/
def Opcode.hasCount : Opcode → Bool
  | .drawGlyph => true
  | .drawText => true
  | _ => false

/-- The only legal length of a packet with this opcode and this count byte (R73). -/
def Opcode.length (o : Opcode) (count : Byte) : Nat :=
  match o with
  | .cmdOpen => 1
  | .cmdInit => 1
  | .cmdFlush => 1
  | .cmdClose => 1
  | .clear => 1
  | .setPixel => 6
  | .fillRect => 10
  | .drawLine => 10
  | .drawCircle => 8
  | .drawGlyph => 7 + count.toNat
  | .drawText => 7 + count.toNat
  | .readByte => 3
  | .readReg => 2

/-- P[i]; the decoder asks only for bytes the packet has. -/
def byteAt (p : List Byte) (i : Nat) : Byte := p.getD i 0

/-- The 16-bit field at offset `o`, low byte first (R71: u16(P[o], P[o+1]); a field of type s16 is the
same pattern, read as two's complement where it is used). -/
def halfAt (p : List Byte) (o : Nat) : Half := byteAt p (o + 1) ++ byteAt p o

/-- The field on (R74, R77). -/
def decodeOn (b : Byte) : Except DecodeError Bool :=
  if b = 0x00 then .ok false else if b = 0x01 then .ok true else .error .reservedOn

/-- The fields of R73 and their reserved values (R77), for a packet of the right length. -/
def decodeFields (o : Opcode) (p : List Byte) : Except DecodeError Instr :=
  match o with
  | .cmdOpen => .ok .cmdOpen
  | .cmdInit => .ok .cmdInit
  | .cmdFlush => .ok .cmdFlush
  | .cmdClose => .ok .cmdClose
  | .clear => .ok .clear
  | .setPixel => (decodeOn (byteAt p 5)).map fun on => .setPixel (halfAt p 1) (halfAt p 3) on
  | .fillRect => (decodeOn (byteAt p 9)).map fun on =>
      .fillRect (halfAt p 1) (halfAt p 3) (halfAt p 5) (halfAt p 7) on
  | .drawLine => (decodeOn (byteAt p 9)).map fun on =>
      .drawLine (halfAt p 1) (halfAt p 3) (halfAt p 5) (halfAt p 7) on
  | .drawCircle => (decodeOn (byteAt p 7)).map fun on =>
      .drawCircle (halfAt p 1) (halfAt p 3) (halfAt p 5) on
  | .drawGlyph =>
      if byteAt p 6 = 5 ∨ byteAt p 6 = 6 then
        (decodeOn (byteAt p 5)).map fun on => .drawGlyph (halfAt p 1) (halfAt p 3) on (p.drop 7)
      else .error .reservedColumnCount
  | .drawText =>
      if byteAt p 5 = 0 then .error .reservedScale
      else .ok (.drawText (halfAt p 1) (halfAt p 3) (byteAt p 5) (p.drop 7))
  | .readByte => .ok (.readByte (halfAt p 1))
  | .readReg => .ok (.readReg (byteAt p 1))

/-- The decode check of R221, made first on every packet. -/
def decode (p : List Byte) : Except DecodeError Instr :=
  match p with
  | [] => .error .emptyPacket
  | b :: _ =>
    match Opcode.ofByte? b with
    | none => .error .reservedOpcode
    | some o =>
      if o.hasCount ∧ p.length < 7 then .error .noCountByte
      else if p.length ≠ o.length (byteAt p 6) then .error .wrongLength
      else decodeFields o p

/-- The two bytes of a 16-bit field, low byte first (R71). -/
def halfBytes (h : Half) : List Byte := [h.extractLsb' 0 8, h.extractLsb' 8 8]

/-- The byte of the field on (R74). -/
def onByte (on : Bool) : Byte := if on then 0x01 else 0x00

/-- The packet of a command (R71 to R73). -/
def encode : Instr → List Byte
  | .cmdOpen => [Opcode.cmdOpen.code]
  | .cmdInit => [Opcode.cmdInit.code]
  | .cmdFlush => [Opcode.cmdFlush.code]
  | .cmdClose => [Opcode.cmdClose.code]
  | .clear => [Opcode.clear.code]
  | .setPixel x y on => Opcode.setPixel.code :: (halfBytes x ++ halfBytes y ++ [onByte on])
  | .fillRect x y w h on =>
      Opcode.fillRect.code :: (halfBytes x ++ halfBytes y ++ halfBytes w ++ halfBytes h ++ [onByte on])
  | .drawLine x0 y0 x1 y1 on =>
      Opcode.drawLine.code ::
        (halfBytes x0 ++ halfBytes y0 ++ halfBytes x1 ++ halfBytes y1 ++ [onByte on])
  | .drawCircle cx cy r on =>
      Opcode.drawCircle.code :: (halfBytes cx ++ halfBytes cy ++ halfBytes r ++ [onByte on])
  | .drawGlyph x y on cols =>
      Opcode.drawGlyph.code ::
        (halfBytes x ++ halfBytes y ++ [onByte on, BitVec.ofNat 8 cols.length] ++ cols)
  | .drawText x y scale chars =>
      Opcode.drawText.code ::
        (halfBytes x ++ halfBytes y ++ [scale, BitVec.ofNat 8 chars.length] ++ chars)
  | .readByte index => Opcode.readByte.code :: halfBytes index
  | .readReg reg => [Opcode.readReg.code, reg]

/-- Byte `k` of a command whose bits are `w`, bit 0 the least significant bit of the first byte, every
bit from `nbits` up being 0. -/
def tableByte (nbits w k : Nat) : Byte := BitVec.ofNat 8 ((w % 2 ^ nbits) >>> (8 * k))

/-- The packet of a command given as a number of the opcode table: as many bytes as its opcode (and
count byte) says, or as `nbits` holds where that is more (log 12: DESIGN CHOICE). -/
def packetOfTableWord (nbits w : Nat) : List Byte :=
  let need :=
    match Opcode.ofByte? (tableByte nbits w 0) with
    | none => 1
    | some o => o.length (tableByte nbits w 6)
  (List.range (max need ((nbits + 7) / 8))).map (tableByte nbits w)

/-- The command this decoder reads from a number of the opcode table (log 12: DESIGN CHOICE). -/
def decodeTableWord (nbits w : Nat) : Option Instr :=
  match decode (packetOfTableWord nbits w) with
  | .ok i => some i
  | .error _ => none

end Sys2Proof
end

