-- ==== Sys2Proof/Config.lean ====
section
/-! DEFINITION. What a build of the core fixes (00_scope.md R6), and the values the spec leaves open. -/

namespace Sys2Proof

/-- GLYPH_WIDTH: "5 or 6 columns" (R6). -/
inductive GlyphWidth where
  | five
  | six
deriving DecidableEq, Repr, Inhabited

/-- The build-time parameters of R6. PAGES is "derived, PAGES = HEIGHT / 8, and is not chosen on its
own", so it is no field. FONT (R31) lists the mapped character codes with their column bytes; a code
it does not list, and a column a listed code lacks, is zero (log 10: DESIGN CHOICE). -/
structure Config where
  width         : Nat
  height        : Nat
  devAddr       : BitVec 7
  dirtyTracking : Bool
  glyphWidth    : GlyphWidth
  textSpacing   : Byte
  font          : List (Byte × List Byte)
deriving DecidableEq, Repr

/-- The legal ranges of R6. The ranges of the other parameters are those of their types. -/
abbrev Config.Legal (c : Config) : Prop :=
  1 ≤ c.width ∧ c.width ≤ 128 ∧ 8 ≤ c.height ∧ c.height ≤ 64 ∧ c.height % 8 = 0

/-- DIRTY_TRACKING of the build in hand: "OPEN (no default in source)" (R6, D10; log 1: DEDUCED). -/
opaque Config.openDirtyTracking : Bool

/-- GLYPH_WIDTH of the build in hand: OPEN (R6, D16; log 1: DEDUCED). -/
opaque Config.openGlyphWidth : GlyphWidth

/-- TEXT_SPACING of the build in hand: OPEN (R6, D16; log 1: DEDUCED). -/
opaque Config.openTextSpacing : Byte

/-- FONT of the build in hand: OPEN (R6, R31, D15; log 1: DEDUCED). -/
opaque Config.openFont : List (Byte × List Byte)

/-- The build in hand: R6's defaults, and an open value where R6 gives no default (log 1: DEDUCED). -/
def Config.build : Config :=
  { width := 128, height := 64, devAddr := 0x3C,
    dirtyTracking := Config.openDirtyTracking, glyphWidth := Config.openGlyphWidth,
    textSpacing := Config.openTextSpacing, font := Config.openFont }

/-- The Transport's answer to a request, as a free value: the argument is the count of free values
drawn before (R170 "a free input (a draw) of the step that issues the request, under no law"; U15;
log 3: DESIGN CHOICE). -/
opaque Config.transportAnswer : Nat → Bool

/-- Byte `i` of a framebuffer that has ceased to exist, as a free value: the first argument is the
count of free values drawn before (R24, R190 "its content becomes unspecified"; U8;
log 7: DESIGN CHOICE). -/
opaque Config.unspecifiedByte : Nat → Nat → Byte

end Sys2Proof
end

