-- ==== Sys2Proof/Machine/State.lean ====
section
/-! DEFINITION. The state of the core (10_state.md), its ports, and the state after reset (R34). -/

namespace Sys2Proof.Machine

/-- STATE, the controller state (R22). Codes 5, 6 and 7 are never held, so they have no constructor. -/
inductive ControllerState where
  | closed
  | opening
  | initialized
  | streaming
  | failed
deriving DecidableEq, Repr

/-- The status codes of 60_exceptions.md R220. -/
inductive Status where
  | ok
  | resourceUnavailable
  | transmissionFailure
  | illegalCommand
  | stateError
  | rangeError
deriving DecidableEq, Repr

/-- One request on the transport port, with the Transport's answer (42_controller.md R170). -/
inductive TransportEvent where
  /-- ACQUIRE and its answer. -/
  | acquire (ok : Bool)
  /-- FRAME(f) and its answer. -/
  | frame (bytes : List Byte) (ok : Bool)
  /-- RELEASE, which has no answer. -/
  | release
deriving DecidableEq, Repr

/-- A response of the host port: `[status, data]` (30_encoding.md R78). -/
structure Response where
  status : Byte
  data   : Byte
deriving DecidableEq, Repr

/-- One input of the host port: a packet, delivered whole with its length known (R70), or a reset,
taken between commands (R250, U10; log 8: DEDUCED). -/
inductive HostInput where
  | packet (bytes : List Byte)
  | reset
deriving DecidableEq, Repr

/-- The framebuffer's bytes by index: indices strictly rising, no byte equal to what an unlisted index
reads as (log 6: DESIGN CHOICE). -/
abbrev Memory := List Host.Cell

/-- The state of the core: the tuple of 10_state.md, its build (R29 registers 0x03 to 0x08 and FONT),
and the model's own ports. -/
structure State where
  /-- The configuration registers and FONT (R29, R31); nothing writes them. -/
  cfg           : Config
  /-- STATE (R22). -/
  ctl           : ControllerState
  /-- TRANSPORT_HELD (R23). -/
  transportHeld : Bool
  /-- FB (R24). -/
  fb            : Memory
  /-- DIRTY: bit p is DIRTY[p] (R25); the bits from PAGES up are reserved (R29). -/
  dirty         : Byte
  /-- LAST_STATUS (R26). -/
  lastStatus    : Byte
  /-- FATAL_CAUSE (R27). -/
  fatalCause    : Byte
  /-- The host port's inputs still to come, the next one first (the model's own; log 4: DESIGN CHOICE). -/
  hostIn        : List HostInput
  /-- The responses returned so far, oldest first (the model's own; log 5: DESIGN CHOICE). -/
  hostOut       : List Response
  /-- The Transport's answers still to come, the next one first (the model's own; log 3: DESIGN CHOICE). -/
  answers       : List Bool
  /-- The Transport requests issued so far, oldest first (R60; the model's own; log 5: DESIGN CHOICE). -/
  transport     : List TransportEvent
  /-- How many free values have been drawn (the model's own; log 3, log 7: DESIGN CHOICE). -/
  draws         : Nat
deriving DecidableEq, Repr

/-- FB and DIRTY, the pair a pixel write works on (R101, R102). -/
structure Canvas where
  fb    : Memory
  dirty : Byte
deriving DecidableEq, Repr

/-- How far a command that emits frames has come: still running, or ended by a fatal error (R172, R173). -/
inductive Progress where
  | running (s : State)
  | ended (s : State)
deriving DecidableEq, Repr

/-- The reasons to stop with a fault: none. Every outcome the spec gives a packet is a response in a
next state (60_exceptions.md R228 "There is no trap mechanism"), so nobody raises a fault (log 19: DEDUCED). -/
inductive Fault where
deriving DecidableEq, Repr

/-- The reasons to refuse a step. -/
inductive Refusal where
  /-- An instruction without a meaning: raised by a refused arm of `exec`; there is none. Safe. -/
  | notModelled (mnemonic : String)
  /-- The build is outside the ranges of R6, which "is refused (the model has no core for it)": raised
  by `step`. Safe. -/
  | illegalConfiguration
deriving DecidableEq, Repr

/-- The core of build `c` right after reset (R34), its ports empty (log 15: DESIGN CHOICE). -/
def State.resetOf (c : Config) : State :=
  { cfg := c, ctl := .closed, transportHeld := false, fb := [], dirty := 0x00, lastStatus := 0x00,
    fatalCause := 0x00, hostIn := [], hostOut := [], answers := [], transport := [], draws := 0 }

/-- The machine right after reset (R34), of the build in hand (R6; log 1: DEDUCED). -/
def State.reset : State := State.resetOf Config.build

end Sys2Proof.Machine
end

