-- ==== Sys2Proof/Machine/Operands.lean ====
section
/-! DEFINITION. What the operands of a command stand for: the layout of FB (20_memory.md R50), the pixels
a drawing command plots (40_framebuffer.md, 41_rasterizer.md), the frames of the transport port
(30_encoding.md part B) and the register map (10_state.md R29). -/

namespace Sys2Proof

/-- PAGES = HEIGHT / 8 (R6). -/
def Config.pages (c : Config) : Nat := c.height / 8

/-- The number of FB bytes, WIDTH * PAGES (R24). -/
def Config.fbSize (c : Config) : Nat := c.width * c.pages

/-- GLYPH_WIDTH as a number (R6). -/
def GlyphWidth.toNat : GlyphWidth → Nat
  | .five => 5
  | .six => 6

/-- FONT[ch][col]: a code or a column the table does not list is zero (R31 "fall back to a blank glyph
(all-zero columns)"). -/
def Config.fontColumn (c : Config) (ch : Byte) (col : Nat) : Byte :=
  ((c.font.lookup ch).getD []).getD col 0x00

namespace Machine

/-! ## The layout of the framebuffer -/

/-- INB(x, y) (R100), on exact integers. -/
abbrev inBounds (c : Config) (x y : Int) : Prop :=
  (0 ≤ x ∧ x < c.width) ∧ (0 ≤ y ∧ y < c.height)

/-- idx(x, y) = x + page(y)*WIDTH, where page(y) = y / 8 (R50). -/
def pixelIndex (c : Config) (x y : Nat) : Nat := x + y / 8 * c.width

/-- bit(y) = y % 8 (R50). -/
def pixelBit (y : Nat) : Nat := y % 8

/-- The byte with one lane lit: 1 << bit(y) (R51, R102). -/
def pixelMask (y : Nat) : Byte := 1#8 <<< pixelBit y

/-! ## The pixels of a drawing command -/

/-- The integers lo, lo+1, ..., hi - 1: `for i in [lo, hi)`, empty when hi ≤ lo (R9). -/
def intRange (lo hi : Int) : List Int := (List.range (hi - lo).toNat).map fun (k : Nat) => lo + (k : Int)

/-- The cells of FILL_RECT (R105). -/
def rectPoints (x y w h : Int) : List (Int × Int) :=
  (intRange 0 h).flatMap fun j => (intRange 0 w).map fun i => (x + i, y + j)

/-- The loop of DRAW_LINE (R130) with `fuel` PLOTs left, at point (x, y) with error term `err`. -/
def lineLoop (dx dy sx sy x1 y1 : Int) : Nat → Int → Int → Int → List (Int × Int)
  | 0, _, _, _ => []
  | fuel + 1, err, x, y =>
    (x, y) ::
      if x = x1 ∧ y = y1 then []
      else
        lineLoop dx dy sx sy x1 y1 fuel
          ((if 2 * err > -dy then err - dy else err) + (if 2 * err < dx then dx else 0))
          (if 2 * err > -dy then x + sx else x)
          (if 2 * err < dx then y + sy else y)

/-- The points of DRAW_LINE in the order R130 plots them. The loop gets max(dx, dy) + 1 PLOTs, the
number after which R131 says it has reached the endpoint (log 13: DEDUCED). -/
def linePoints (x0 y0 x1 y1 : Int) : List (Int × Int) :=
  let dx : Int := (x1 - x0).natAbs
  let dy : Int := (y1 - y0).natAbs
  lineLoop dx dy (if x0 < x1 then 1 else -1) (if y0 < y1 then 1 else -1) x1 y1
    (max (x1 - x0).natAbs (y1 - y0).natAbs + 1) (dx - dy) x0 y0

/-- The cells (i, j) of [-r, r]² that DRAW_CIRCLE visits (R132); none when r < 0. -/
def circleCells (r : Int) : List (Int × Int) :=
  (intRange (-r) (r + 1)).flatMap fun j => (intRange (-r) (r + 1)).map fun i => (i, j)

/-- The points of DRAW_CIRCLE: those cells with i² + j² ≤ r² (R132). -/
def circlePoints (cx cy r : Int) : List (Int × Int) :=
  ((circleCells r).filter fun p => decide (p.1 * p.1 + p.2 * p.2 ≤ r * r)).map
    fun p => (cx + p.1, cy + p.2)

/-- The set bits (c, k) of a glyph, column by column: `col c` is column byte c (R134, R135). -/
def glyphBits (ncols : Nat) (col : Nat → Byte) : List (Nat × Nat) :=
  ((List.range ncols).flatMap fun c => (List.range 8).map fun k => (c, k)).filter
    fun p => (col p.1).getLsbD p.2

/-- The points of DRAW_GLYPH: bit k of column c is the pixel (x + c, y + k); a 0 bit plots nothing (R134). -/
def glyphPoints (x y : Int) (cols : List Byte) : List (Int × Int) :=
  (glyphBits cols.length fun c => cols.getD c 0x00).map fun p => (x + (p.1 : Int), y + (p.2 : Int))

/-- adv = GLYPH_WIDTH*scale + TEXT_SPACING (R135). -/
def textAdvance (c : Config) (scale : Nat) : Nat :=
  c.glyphWidth.toNat * scale + c.textSpacing.toNat

/-- The cells of one scale × scale block whose top-left corner is (x, y) (R135). -/
def blockPoints (x y : Int) (scale : Nat) : List (Int × Int) :=
  (List.range scale).flatMap fun (a : Nat) =>
    (List.range scale).map fun (b : Nat) => (x + (a : Int), y + (b : Int))

/-- The points of one character of DRAW_TEXT whose top-left corner is (ox, y) (R135). -/
def charPoints (c : Config) (ox y : Int) (scale : Nat) (ch : Byte) : List (Int × Int) :=
  (glyphBits c.glyphWidth.toNat (c.fontColumn ch)).flatMap fun p =>
    blockPoints (ox + (p.1 * scale : Nat)) (y + (p.2 * scale : Nat)) scale

/-- The points of DRAW_TEXT, left to right: each character starts adv after the one before (R135). -/
def textPoints (c : Config) (x y : Int) (scale : Nat) : List Byte → List (Int × Int)
  | [] => []
  | ch :: rest =>
    charPoints c x y scale ch ++ textPoints c (x + (textAdvance c scale : Nat)) y scale rest

/-! ## The frames of the transport port -/

/-- ADDR_W = (DEV_ADDR << 1) | 0 (R82). -/
def addrW (c : Config) : Byte := c.devAddr.setWidth 8 <<< 1

/-- CMD_FRAME(b) = [ADDR_W, 0x00, b] (R80). -/
def cmdFrame (c : Config) (b : Byte) : List Byte := [addrW c, 0x00, b]

/-- DATA_FRAME(d) = [ADDR_W, 0x40] ++ d (R81). -/
def dataFrame (c : Config) (d : List Byte) : List Byte := addrW c :: 0x40 :: d

/-- The steps of INIT_SEQ (R84): the bytes of each step with §4.2's name for it. -/
def initSteps : List (String × List Byte) :=
  [("display off", [0xAE]),
   ("clock divider", [0xD5, 0x80]),
   ("multiplex ratio", [0xA8, 0x3F]),
   ("offset", [0xD3, 0x00]),
   ("(not named in 4.2)", [0x40]),
   ("charge pump enable", [0x8D, 0x14]),
   ("addressing mode", [0x20, 0x00])] ++
  [("segment/COM remap (segment part)", [0xA1]),
   ("segment/COM remap (COM part)", [0xC8]),
   ("COM pin config", [0xDA, 0x12]),
   ("contrast", [0x81, 0xCF]),
   ("pre-charge", [0xD9, 0xF1]),
   ("VCOMH level", [0xDB, 0x40]),
   ("entire-display-on/resume", [0xA4]),
   ("normal (non-inverted) mode", [0xA6]),
   ("display on", [0xAF])]

/-- INIT_SEQ, 25 bytes (R30). -/
def initSeq : List Byte :=
  [0xAE, 0xD5, 0x80, 0xA8, 0x3F, 0xD3, 0x00, 0x40, 0x8D, 0x14, 0x20, 0x00, 0xA1, 0xC8, 0xDA, 0x12,
   0x81, 0xCF, 0xD9, 0xF1, 0xDB, 0x40, 0xA4, 0xA6, 0xAF]

/-- The page-select byte 0xB0 + p (R85). -/
def pageSelect (p : Nat) : Byte := 0xB0 + BitVec.ofNat 8 p

/-- The two column-address bytes, 0x00 then 0x10 (R85). -/
def columnLow : Byte := 0x00
/-- The second column-address byte (R85). -/
def columnHigh : Byte := 0x10

/-! ## Codes and the register map -/

/-- The code of STATE (R22). -/
def ControllerState.code : ControllerState → BitVec 3
  | .closed => 0
  | .opening => 1
  | .initialized => 2
  | .streaming => 3
  | .failed => 4

/-- FB_VALID: the framebuffer exists (R33). -/
def ControllerState.fbValid : ControllerState → Bool
  | .closed => false
  | .opening => true
  | .initialized => true
  | .streaming => true
  | .failed => false

/-- The status codes of R220. -/
def Status.code : Status → Byte
  | .ok => 0x00
  | .resourceUnavailable => 0x01
  | .transmissionFailure => 0x02
  | .illegalCommand => 0x10
  | .stateError => 0x11
  | .rangeError => 0x12

/-- Register 0x00: STATE in bits 2:0, TRANSPORT_HELD in bit 3, the rest 0 (R29). -/
def stateRegister (s : State) : Byte :=
  s.ctl.code.setWidth 8 ||| (if s.transportHeld then 0x08 else 0x00)

/-- Register 0x07: DIRTY_TRACKING in bit 0, GLYPH_WIDTH in bits 7:4, the rest 0 (R29). -/
def featuresRegister (c : Config) : Byte :=
  (if c.dirtyTracking then 0x01 else 0x00) ||| (BitVec.ofNat 8 c.glyphWidth.toNat <<< 4)

/-- The bits of register 0x09 that are flags: those below PAGES (R29; log 11: DESIGN CHOICE). -/
def pagesMask (c : Config) : Byte := BitVec.ofNat 8 (2 ^ c.pages - 1)

/-- REGVAL (R195): the registers of R29, reserved bits 0; none for 0x0A and up. -/
def regVal (s : State) (reg : Byte) : Option Byte :=
  match reg.toNat with
  | 0x00 => some (stateRegister s)
  | 0x01 => some s.lastStatus
  | 0x02 => some s.fatalCause
  | 0x03 => some (BitVec.ofNat 8 s.cfg.width)
  | 0x04 => some (BitVec.ofNat 8 s.cfg.height)
  | 0x05 => some (BitVec.ofNat 8 s.cfg.pages)
  | 0x06 => some (s.cfg.devAddr.setWidth 8)
  | 0x07 => some (featuresRegister s.cfg)
  | 0x08 => some s.cfg.textSpacing
  | 0x09 => some (s.dirty &&& pagesMask s.cfg)
  | _ => none

end Machine
end Sys2Proof
end

