-- ==== Sys2Proof/Machine/Flags.lean ====
section
/-! DEFINITION. The flags of the core: DIRTY[0..PAGES-1] (10_state.md R25, R28). -/

namespace Sys2Proof.Machine

/-- DIRTY[p] (R25). -/
def dirtyAt (d : Byte) (p : Nat) : Bool := d.getLsbD p

/-- DIRTY[p] <- 1 (R101). -/
def setDirty (d : Byte) (p : Nat) : Byte := d ||| (1#8 <<< p)

/-- DIRTY[p] <- 0, once the data frame of page p is acknowledged (R186). -/
def clearDirty (d : Byte) (p : Nat) : Byte := d &&& ~~~(1#8 <<< p)

/-- Every flag set, as OPEN leaves them (R180). -/
def allDirty (c : Config) : Byte := pagesMask c

/-- Whether FLUSH sends page p: skipped only with DIRTY_TRACKING = 1 and DIRTY[p] = 0 (R185). -/
def pageIsSent (c : Config) (d : Byte) (p : Nat) : Bool :=
  if dirtyAt d p then true else !c.dirtyTracking

end Sys2Proof.Machine
end

