-- ==== Sys2Proof/Machine/Ops.lean ====
section
/-! DEFINITION. The shared operations: framebuffer bytes and pixels (R101, R102), transport requests
(R170 to R173), responses and errors (R78, R223, R224), the state check (R222), reset (R250). -/

namespace Sys2Proof.Machine

/-! ## The framebuffer's bytes -/

/-- What an index with no cell reads as (log 6: DESIGN CHOICE): the byte OPEN creates FB with (R180). -/
def unlistedByte : Byte := 0x00

/-- FB[i] (R10). -/
def Memory.read : Memory → Nat → Byte
  | [], _ => unlistedByte
  | (a, v) :: m, i => if a = i then v else Memory.read m i

/-- FB[i] <- v, keeping the canonical form. -/
def Memory.write : Memory → Nat → Byte → Memory
  | [], i, v => if v = unlistedByte then [] else [(i, v)]
  | (a, w) :: m, i, v =>
    if i < a then (if v = unlistedByte then (a, w) :: m else (i, v) :: (a, w) :: m)
    else if i = a then (if v = unlistedByte then m else (i, v) :: m)
    else (a, w) :: Memory.write m i v

/-- The canonical form: indices strictly rising and no byte equal to what an unlisted index reads as. -/
abbrev Memory.wf (m : Memory) : Prop :=
  m.Pairwise (fun a b => a.1 < b.1) ∧ ∀ cell ∈ m, cell.2 ≠ unlistedByte

/-- An FB of `size` bytes, byte i being `f i`. -/
def Memory.ofFn (f : Nat → Byte) : Nat → Memory
  | 0 => []
  | size + 1 => Memory.write (Memory.ofFn f size) size (f size)

/-- The bytes of an FB that does not exist: free values (R24, R190; log 7: DESIGN CHOICE). -/
def Memory.unspecified (c : Config) (draw : Nat) : Memory :=
  Memory.ofFn (Config.unspecifiedByte draw) c.fbSize

/-- pixel(x, y) = FB[idx(x, y)][bit(y)] (R50). -/
def pixelAt (c : Config) (fb : Memory) (x y : Nat) : Bool :=
  (fb.read (pixelIndex c x y)).getLsbD (pixelBit y)

/-- FB and DIRTY of a state. -/
def State.canvas (s : State) : Canvas := { fb := s.fb, dirty := s.dirty }

/-- A state with FB and DIRTY replaced. -/
def State.withCanvas (s : State) (c : Canvas) : State := { s with fb := c.fb, dirty := c.dirty }

/-- MemWrite(i, 1, v) (R101): DIRTY of the byte's page is set when the value changes. -/
def memWrite (cfg : Config) (i : Nat) (v : Byte) (c : Canvas) : Canvas :=
  { fb := c.fb.write i v
    dirty := if v ≠ c.fb.read i then setDirty c.dirty (i / cfg.width) else c.dirty }

/-- PLOT(x, y, on) (R102). -/
def plot (cfg : Config) (on : Bool) (c : Canvas) (p : Int × Int) : Canvas :=
  if inBounds cfg p.1 p.2 then
    let i := pixelIndex cfg p.1.toNat p.2.toNat
    let old := c.fb.read i
    memWrite cfg i (if on then old ||| pixelMask p.2.toNat else old &&& ~~~(pixelMask p.2.toNat)) c
  else c

/-- PLOT each point of a list, one after another. -/
def plotAll (cfg : Config) (on : Bool) (pts : List (Int × Int)) (c : Canvas) : Canvas :=
  pts.foldl (plot cfg on) c

/-- MemWrite(i, 1, 0x00) for i = 0 .. n-1, in that order (R103). -/
def clearBytes (cfg : Config) : Nat → Canvas → Canvas
  | 0, c => c
  | n + 1, c => memWrite cfg n 0x00 (clearBytes cfg n c)

/-- The bytes of page p, c = 0 .. WIDTH-1 (R186). -/
def pageBytes (cfg : Config) (fb : Memory) (p : Nat) : List Byte :=
  (List.range cfg.width).map fun c => fb.read (p * cfg.width + c)

/-! ## Responses and errors -/

/-- Return `[code, data]` (R78). -/
def respond (code : Status) (data : Byte) (s : State) : State :=
  { s with hostOut := s.hostOut ++ [{ status := code.code, data := data }] }

/-- LAST_STATUS <- code, and return `[code, data]`. -/
def finish (code : Status) (data : Byte) (s : State) : State :=
  respond code data { s with lastStatus := code.code }

/-- `raise code`, for a packet whose opcode is not 0x21 (R223). -/
def raise (code : Status) (s : State) : State := finish code 0x00 s

/-- enter_FAILED(code) (R224). -/
def enterFailed (code : Status) (s : State) : State :=
  finish code 0x00 { s with ctl := .failed, fatalCause := code.code }

/-- An illegal packet (R221, R223): ILLEGAL_COMMAND, which a packet with opcode 0x21 does not record. -/
def illegalPacket (p : List Byte) (s : State) : State :=
  if p.head? = some Opcode.readReg.code then respond .illegalCommand 0x00 s
  else raise .illegalCommand s

/-- The rows of R222's table. -/
inductive CommandClass where
  | cmdOpen
  | cmdInit
  | cmdFlush
  | cmdClose
  /-- CLEAR, the six other drawing commands and READ_BYTE. -/
  | framebuffer
  | readReg
deriving DecidableEq, Repr

/-- R222's table: whether a command is legal in a controller state. -/
def legalIn : CommandClass → ControllerState → Bool
  | .cmdOpen, .closed => true
  | .cmdOpen, _ => false
  | .cmdInit, .opening => true
  | .cmdInit, _ => false
  | .cmdFlush, .initialized => true
  | .cmdFlush, .streaming => true
  | .cmdFlush, _ => false
  | .cmdClose, _ => true
  | .framebuffer, c => c.fbValid
  | .readReg, _ => true

/-- The state check (R222), then the command's own pseudocode. -/
def guarded (cls : CommandClass) (body : State → State) (s : State) :
    Host.Outcome State Fault Refusal :=
  .next (if legalIn cls s.ctl then body s else raise .stateError s)

/-- The body of a drawing command: PLOT its points, then LAST_STATUS <- OK (R102, R137). -/
def drawPoints (on : Bool) (pts : List (Int × Int)) (s : State) : State :=
  finish .ok 0x00 (s.withCanvas (plotAll s.cfg on pts s.canvas))

/-! ## Transport requests -/

/-- The answer the Transport will give to the next request (R170): a free input, and a free value where
the list of inputs has ended (log 3: DESIGN CHOICE). -/
def nextAnswer (s : State) : Bool :=
  match s.answers with
  | a :: _ => a
  | [] => Config.transportAnswer s.draws

/-- The state after a request that has an answer: the answer is used up and the request recorded. -/
def afterRequest (e : TransportEvent) (s : State) : State :=
  { s with
    answers := s.answers.tail
    draws := if s.answers.isEmpty then s.draws + 1 else s.draws
    transport := s.transport ++ [e] }

/-- Transport.RELEASE(), which has no answer (R170). -/
def releaseRequest (s : State) : State := { s with transport := s.transport ++ [.release] }

/-- Transport.FRAME(f): a false answer is TRANSMISSION_FAILURE, which ends the command here (R171). -/
def emit (f : List Byte) (s : State) : Progress :=
  if nextAnswer s then .running (afterRequest (.frame f true) s)
  else .ended (enterFailed .transmissionFailure (afterRequest (.frame f false) s))

/-- The next part of a command that is still running. -/
def Progress.andThen (p : Progress) (k : State → Progress) : Progress :=
  match p with
  | .running s => k s
  | .ended s => .ended s

/-- The end of a command: its last pseudocode lines if it is still running. -/
def Progress.complete (p : Progress) (k : State → State) : State :=
  match p with
  | .running s => k s
  | .ended s => s

/-- emit_cmd(b) (R172). -/
def emitCmd (b : Byte) (s : State) : Progress := emit (cmdFrame s.cfg b) s

/-- emit_data(d) (R173). -/
def emitData (d : List Byte) (s : State) : Progress := emit (dataFrame s.cfg d) s

/-- emit_cmd of each byte in turn (R182). -/
def emitCmds : List Byte → State → Progress
  | [], s => .running s
  | b :: rest, s => (emitCmd b s).andThen (emitCmds rest)

/-- SEND_PAGE(p) (R186). -/
def sendPage (p : Nat) (s : State) : Progress :=
  (emitCmds [pageSelect p, columnLow, columnHigh] s).andThen fun s1 =>
    (emitData (pageBytes s1.cfg s1.fb p) s1).andThen fun s2 =>
      .running { s2 with dirty := clearDirty s2.dirty p }

/-- The page loop of FLUSH over a list of pages (R185). -/
def flushPages : List Nat → State → Progress
  | [], s => .running s
  | p :: rest, s =>
    if pageIsSent s.cfg s.dirty p then (sendPage p s).andThen (flushPages rest)
    else flushPages rest s

/-! ## The host port -/

/-- What the host port gives the core next. -/
inductive Fetched where
  /-- Nothing has been presented: the core waits. -/
  | nothing
  /-- A packet, and the state with it taken off the port. -/
  | packet (bytes : List Byte) (s : State)
  /-- A reset, and the state with it taken off the port. -/
  | reset (s : State)
deriving DecidableEq, Repr

/-- Take the next input off the host port (R70). -/
def fetch (s : State) : Fetched :=
  match s.hostIn with
  | [] => .nothing
  | .packet p :: rest => .packet p { s with hostIn := rest }
  | .reset :: rest => .reset { s with hostIn := rest }

/-- The reset event (R250): every piece of state to its value in R34, FB unspecified, no Transport
request. The build and what lies outside the core, its ports, stay (log 7, log 8: DEDUCED). -/
def resetEvent (s : State) : State :=
  { s with
    ctl := .closed
    transportHeld := false
    fb := Memory.unspecified s.cfg s.draws
    dirty := 0x00
    lastStatus := 0x00
    fatalCause := 0x00
    draws := s.draws + 1 }

end Sys2Proof.Machine
end

