-- ==== Sys2Proof/Machine/Controller.lean ====
section
/-! DEFINITION. The controller commands (42_controller.md): OPEN, INIT, FLUSH, CLOSE, READ_REG. -/

namespace Sys2Proof.Machine

/-- OPEN after its ACQUIRE was answered true (R180): FB is created all zero, not by MemWrite. -/
def openGranted (s : State) : State :=
  finish .ok 0x00
    { s with
      transportHeld := true
      fb := []
      dirty := allDirty s.cfg
      fatalCause := 0x00
      ctl := .opening }

/-- OPEN (R180). -/
def execOpen (s : State) : Host.Outcome State Fault Refusal :=
  guarded .cmdOpen
    (fun s =>
      if nextAnswer s then openGranted (afterRequest (.acquire true) s)
      else enterFailed .resourceUnavailable (afterRequest (.acquire false) s)) s

/-- INIT (R182). -/
def execInit (s : State) : Host.Outcome State Fault Refusal :=
  guarded .cmdInit
    (fun s => (emitCmds initSeq s).complete fun s1 => finish .ok 0x00 { s1 with ctl := .initialized }) s

/-- FLUSH (R185). -/
def execFlush (s : State) : Host.Outcome State Fault Refusal :=
  guarded .cmdFlush
    (fun s =>
      (flushPages (List.range s.cfg.pages) s).complete fun s1 =>
        finish .ok 0x00 { s1 with ctl := .streaming }) s

/-- CLOSE (R190): FATAL_CAUSE is unchanged, and the bytes of the FB that ceases to exist are free
values (log 7: DESIGN CHOICE). -/
def execClose (s : State) : Host.Outcome State Fault Refusal :=
  guarded .cmdClose
    (fun s =>
      let s1 := if s.transportHeld then { releaseRequest s with transportHeld := false } else s
      finish .ok 0x00
        { s1 with
          dirty := 0x00
          ctl := .closed
          fb := Memory.unspecified s1.cfg s1.draws
          draws := s1.draws + 1 }) s

/-- READ_REG (R195): no state changes, LAST_STATUS included. -/
def execReadReg (reg : Byte) (s : State) : Host.Outcome State Fault Refusal :=
  guarded .readReg
    (fun s =>
      match regVal s reg with
      | some v => respond .ok v s
      | none => respond .rangeError 0x00 s) s

end Sys2Proof.Machine
end

