-- ==== Sys2Proof/Machine/Framebuffer.lean ====
section
/-! DEFINITION. The framebuffer commands (40_framebuffer.md): CLEAR, SET_PIXEL, FILL_RECT, READ_BYTE. -/

namespace Sys2Proof.Machine

/-- CLEAR (R103). -/
def execClear (s : State) : Host.Outcome State Fault Refusal :=
  guarded .framebuffer
    (fun s => finish .ok 0x00 (s.withCanvas (clearBytes s.cfg s.cfg.fbSize s.canvas))) s

/-- SET_PIXEL (R104). -/
def execSetPixel (x y : Half) (on : Bool) (s : State) : Host.Outcome State Fault Refusal :=
  guarded .framebuffer (drawPoints on [(x.toInt, y.toInt)]) s

/-- FILL_RECT (R105). -/
def execFillRect (x y w h : Half) (on : Bool) (s : State) : Host.Outcome State Fault Refusal :=
  guarded .framebuffer (drawPoints on (rectPoints x.toInt y.toInt w.toInt h.toInt)) s

/-- READ_BYTE (R106). -/
def execReadByte (index : Half) (s : State) : Host.Outcome State Fault Refusal :=
  guarded .framebuffer
    (fun s =>
      if index.toNat ≥ s.cfg.fbSize then raise .rangeError s
      else finish .ok (s.fb.read index.toNat) s) s

end Sys2Proof.Machine
end

