-- ==== Sys2Proof/Machine/Rasterizer.lean ====
section
/-! DEFINITION. The rasterizer commands (41_rasterizer.md): DRAW_LINE, DRAW_CIRCLE, DRAW_GLYPH, DRAW_TEXT. -/

namespace Sys2Proof.Machine

/-- DRAW_LINE (R130). -/
def execDrawLine (x0 y0 x1 y1 : Half) (on : Bool) (s : State) : Host.Outcome State Fault Refusal :=
  guarded .framebuffer (drawPoints on (linePoints x0.toInt y0.toInt x1.toInt y1.toInt)) s

/-- DRAW_CIRCLE (R132). -/
def execDrawCircle (cx cy r : Half) (on : Bool) (s : State) : Host.Outcome State Fault Refusal :=
  guarded .framebuffer (drawPoints on (circlePoints cx.toInt cy.toInt r.toInt)) s

/-- DRAW_GLYPH (R134). -/
def execDrawGlyph (x y : Half) (on : Bool) (cols : List Byte) (s : State) :
    Host.Outcome State Fault Refusal :=
  guarded .framebuffer (drawPoints on (glyphPoints x.toInt y.toInt cols)) s

/-- DRAW_TEXT (R135): it always lights pixels. -/
def execDrawText (x y : Half) (scale : Byte) (chars : List Byte) (s : State) :
    Host.Outcome State Fault Refusal :=
  guarded .framebuffer
    (fun s => drawPoints true (textPoints s.cfg x.toInt y.toInt scale.toNat chars) s) s

end Sys2Proof.Machine
end

