-- ==== Sys2Proof/Machine/Dispatch.lean ====
section
/-! DEFINITION. One arm per command, each one call of its meaning. -/

namespace Sys2Proof.Machine

def exec (i : Instr) (s : State) : Host.Outcome State Fault Refusal :=
  match i with
  | .cmdOpen => Sys2Proof.Machine.execOpen s
  | .cmdInit => Sys2Proof.Machine.execInit s
  | .cmdFlush => Sys2Proof.Machine.execFlush s
  | .cmdClose => Sys2Proof.Machine.execClose s
  | .clear => Sys2Proof.Machine.execClear s
  | .setPixel x y on => Sys2Proof.Machine.execSetPixel x y on s
  | .fillRect x y w h on => Sys2Proof.Machine.execFillRect x y w h on s
  | .drawLine x0 y0 x1 y1 on => Sys2Proof.Machine.execDrawLine x0 y0 x1 y1 on s
  | .drawCircle cx cy r on => Sys2Proof.Machine.execDrawCircle cx cy r on s
  | .drawGlyph x y on cols => Sys2Proof.Machine.execDrawGlyph x y on cols s
  | .drawText x y scale chars => Sys2Proof.Machine.execDrawText x y scale chars s
  | .readByte index => Sys2Proof.Machine.execReadByte index s
  | .readReg reg => Sys2Proof.Machine.execReadReg reg s

end Sys2Proof.Machine
end

