-- ==== Sys2Proof/Machine/Step.lean ====
section
/-! DEFINITION. One step of the core: one input of the host port, run to completion (20_memory.md R55,
30_encoding.md R70). -/

namespace Sys2Proof.Machine

/-- One step. A build outside R6's ranges is refused (log 2: DEDUCED); with no input presented the core waits
(log 4: DESIGN CHOICE); a packet is decoded (R221) and then executed. -/
def step (s : State) : Host.Outcome State Fault Refusal :=
  if s.cfg.Legal then
    match fetch s with
    | .nothing => .next s
    | .reset s1 => .next (resetEvent s1)
    | .packet p s1 =>
      match decode p with
      | .ok i => exec i s1
      | .error _ => .next (illegalPacket p s1)
  else .refused .illegalConfiguration

/-- `s` with a command of the opcode table as the packet the host presents next (log 12, log 14: DESIGN CHOICE). -/
def State.withFetchWord (s : State) (nbits w : Nat) : State :=
  { s with hostIn := .packet (packetOfTableWord nbits w) :: s.hostIn }

end Sys2Proof.Machine
end

