-- ==== Sys2Proof/Machine/Assembler.lean ====
section
/-! DEFINITION. The assembler's text (30_encoding.md R79): a program is a list of lines, each written as the
packet of R73. Where R79 is silent on the text, the choice is log 17. The assembler checks that a number
fits its field, not that the packet is legal: the decoder refuses reserved values (R221). -/

namespace Sys2Proof.Machine

/-! ## The words of a line -/

/-- The words of a line. -/
inductive Token where
  /-- A mnemonic or a number. -/
  | word (cs : List Char)
  /-- A double-quoted string, without its quotes. -/
  | text (cs : List Char)
  | comma
  | openBracket
  | closeBracket
deriving DecidableEq, Repr

/-- Where the reader of a line stands. -/
inductive LexState where
  | gap
  /-- Inside a word; its characters, the last one first. -/
  | word (acc : List Char)
  /-- Inside a string; its characters, the last one first. -/
  | text (acc : List Char)
  /-- After `;`. -/
  | comment
deriving DecidableEq, Repr

/-- A character of a mnemonic or a number. -/
def isWordChar (c : Char) : Bool := c.isAlphanum || c == '_' || c == '-'

/-- A character of a string: printable ASCII (R79). -/
def isTextChar (c : Char) : Bool := decide (0x20 ≤ c.toNat ∧ c.toNat ≤ 0x7E)

/-- What a character outside a word, a string and a comment begins; none where it begins nothing. -/
def lexGap (c : Char) : Option (List Token × LexState) :=
  if c = ' ' ∨ c = '\t' ∨ c = '\r' then some ([], .gap)
  else if c = ';' then some ([], .comment)
  else if c = ',' then some ([.comma], .gap)
  else if c = '[' then some ([.openBracket], .gap)
  else if c = ']' then some ([.closeBracket], .gap)
  else if c = '"' then some ([], .text [])
  else if isWordChar c then some ([], .word [c])
  else none

/-- The words of a line; none where the text is malformed. -/
def lex : LexState → List Char → Option (List Token)
  | .gap, [] => some []
  | .word acc, [] => some [.word acc.reverse]
  | .text _, [] => none
  | .comment, [] => some []
  | .gap, c :: cs => (lexGap c).bind fun r => (lex r.2 cs).map fun ts => r.1 ++ ts
  | .word acc, c :: cs =>
    if isWordChar c then lex (.word (c :: acc)) cs
    else (lexGap c).bind fun r => (lex r.2 cs).map fun ts => .word acc.reverse :: (r.1 ++ ts)
  | .text acc, c :: cs =>
    if c = '"' then (lex .gap cs).map fun ts => .text acc.reverse :: ts
    else if isTextChar c then lex (.text (c :: acc)) cs
    else none
  | .comment, _ :: cs => lex .comment cs

/-! ## Numbers -/

/-- The value of a decimal or hex digit. -/
def digitValue (c : Char) : Option Nat :=
  if '0' ≤ c ∧ c ≤ '9' then some (c.toNat - '0'.toNat)
  else if 'a' ≤ c ∧ c ≤ 'f' then some (c.toNat - 'a'.toNat + 10)
  else if 'A' ≤ c ∧ c ≤ 'F' then some (c.toNat - 'A'.toNat + 10)
  else none

/-- The value of digits in a base, after the value `acc` of those before. -/
def digitsFrom (base acc : Nat) : List Char → Option Nat
  | [] => some acc
  | c :: cs =>
    match digitValue c with
    | some d => if d < base then digitsFrom base (base * acc + d) cs else none
    | none => none

/-- The value of one digit or more. -/
def digits (base : Nat) (cs : List Char) : Option Nat :=
  if cs.isEmpty then none else digitsFrom base 0 cs

/-- A number: decimal with an optional leading `-`, or hex `0x..` (R79). -/
def number (cs : List Char) : Option Int :=
  match cs with
  | '0' :: 'x' :: hex => (digits 16 hex).map Int.ofNat
  | '-' :: dec => (digits 10 dec).map fun n => -(n : Int)
  | dec => (digits 10 dec).map Int.ofNat

/-- A number that fits a u8 field. -/
def byteOperand (cs : List Char) : Option Byte :=
  (number cs).bind fun n => if 0 ≤ n ∧ n ≤ 255 then some (BitVec.ofInt 8 n) else none

/-! ## Operands -/

/-- The types of R73's fields, as R79 writes them. -/
inductive Field where
  | s16
  | u16
  | u8
  /-- The field on, written 0 or 1. -/
  | on
  /-- ncols and the columns, written as a bracketed list. -/
  | columns
  /-- len and the characters, written as a string. -/
  | text
deriving DecidableEq, Repr

/-- The operands of a command in the order of R73. -/
def fieldsOf : Opcode → List Field
  | .cmdOpen => []
  | .cmdInit => []
  | .cmdFlush => []
  | .cmdClose => []
  | .clear => []
  | .setPixel => [.s16, .s16, .on]
  | .fillRect => [.s16, .s16, .s16, .s16, .on]
  | .drawLine => [.s16, .s16, .s16, .s16, .on]
  | .drawCircle => [.s16, .s16, .s16, .on]
  | .drawGlyph => [.s16, .s16, .on, .columns]
  | .drawText => [.s16, .s16, .u8, .text]
  | .readByte => [.u16]
  | .readReg => [.u8]

/-- The mnemonics of R72. -/
def mnemonicOf : Opcode → String
  | .cmdOpen => "OPEN"
  | .cmdInit => "INIT"
  | .cmdFlush => "FLUSH"
  | .cmdClose => "CLOSE"
  | .clear => "CLEAR"
  | .setPixel => "SET_PIXEL"
  | .fillRect => "FILL_RECT"
  | .drawLine => "DRAW_LINE"
  | .drawCircle => "DRAW_CIRCLE"
  | .drawGlyph => "DRAW_GLYPH"
  | .drawText => "DRAW_TEXT"
  | .readByte => "READ_BYTE"
  | .readReg => "READ_REG"

/-- The rest of a bracketed list that is not empty, and the words after it. -/
def listRest : List Token → Option (List Byte × List Token)
  | .word w :: .comma :: rest =>
    (byteOperand w).bind fun b => (listRest rest).map fun r => (b :: r.1, r.2)
  | .word w :: .closeBracket :: rest => (byteOperand w).map fun b => ([b], rest)
  | _ => none

/-- A bracketed list of bytes, and the words after it. -/
def listOperand : List Token → Option (List Byte × List Token)
  | .openBracket :: .closeBracket :: rest => some ([], rest)
  | .openBracket :: rest => listRest rest
  | _ => none

/-- A count byte and the bytes it counts. -/
def counted (bs : List Byte) : Option (List Byte) :=
  if bs.length ≤ 255 then some (BitVec.ofNat 8 bs.length :: bs) else none

/-- The bytes of one operand, and the words after it. -/
def operand (f : Field) (ts : List Token) : Option (List Byte × List Token) :=
  match f, ts with
  | .s16, .word w :: rest => (number w).bind fun n =>
      if -32768 ≤ n ∧ n ≤ 32767 then some (halfBytes (BitVec.ofInt 16 n), rest) else none
  | .u16, .word w :: rest => (number w).bind fun n =>
      if 0 ≤ n ∧ n ≤ 65535 then some (halfBytes (BitVec.ofInt 16 n), rest) else none
  | .u8, .word w :: rest => (byteOperand w).map fun b => ([b], rest)
  | .on, .word w :: rest =>
      if w = ['0'] then some ([0x00], rest) else if w = ['1'] then some ([0x01], rest) else none
  | .columns, ts => (listOperand ts).bind fun r => (counted r.1).map fun bs => (bs, r.2)
  | .text, .text cs :: rest =>
      (counted (cs.map fun c => BitVec.ofNat 8 c.toNat)).map fun bs => (bs, rest)
  | _, _ => none

/-- The bytes of the operands that follow another, each after a comma. -/
def operandsAfter : List Field → List Token → Option (List Byte)
  | [], [] => some []
  | [], _ :: _ => none
  | f :: fs, .comma :: ts =>
    (operand f ts).bind fun r => (operandsAfter fs r.2).map fun bs => r.1 ++ bs
  | _ :: _, _ => none

/-- The bytes of all operands. -/
def operands : List Field → List Token → Option (List Byte)
  | [], [] => some []
  | [], _ :: _ => none
  | f :: fs, ts => (operand f ts).bind fun r => (operandsAfter fs r.2).map fun bs => r.1 ++ bs

/-! ## Lines and programs -/

/-- The command a mnemonic names. -/
def opcodeOfMnemonic (w : List Char) : Option Opcode :=
  Opcode.all.find? fun o => (mnemonicOf o).toList == w

/-- The packets of one line: one, or none where the line is empty or holds only a comment. -/
def assembleLine (cs : List Char) : Option (List (List Byte)) :=
  match lex .gap cs with
  | some [] => some []
  | some (.word w :: ts) => (opcodeOfMnemonic w).bind fun o =>
      (operands (fieldsOf o) ts).map fun bs => [o.code :: bs]
  | _ => none

/-- The lines of a text. -/
def linesOf : List Char → List (List Char)
  | [] => [[]]
  | c :: cs =>
    match linesOf cs with
    | [] => [[c]]
    | l :: ls => if c = '\n' then [] :: l :: ls else (c :: l) :: ls

/-- The packets of the lines of a program, in order. -/
def assembleLines : List (List Char) → Option (List (List Byte))
  | [] => some []
  | l :: ls => (assembleLine l).bind fun ps => (assembleLines ls).map fun qs => ps ++ qs

/-- The packets of a program (R79). -/
def assemble (source : String) : Option (List (List Byte)) := assembleLines (linesOf source.toList)

end Sys2Proof.Machine
end

