-- ==== Sys2Proof/Safety.lean ====
section
/-! DEFINITION. What a run of the core keeps and what its commands may do, in the terms the statements use. -/

namespace Sys2Proof.Safety

open Sys2Proof.Machine

/-! ## The invariant -/

/-- The codes of R220: "No other code is ever returned". -/
def statusCodes : List Byte := [0x00, 0x01, 0x02, 0x10, 0x11, 0x12]

/-- The values FATAL_CAUSE holds (R27). -/
def fatalCauses : List Byte := [0x00, 0x01, 0x02]

/-- What holds after reset and after every step. -/
structure CoreInv (s : State) : Prop where
  /-- The build is in R6's ranges. -/
  build : s.cfg.Legal
  /-- FB is in its canonical form. -/
  fbCanonical : s.fb.wf
  /-- FB lists no index from WIDTH*PAGES up (R24). -/
  fbInRange : ∀ cell ∈ s.fb, cell.1 < s.cfg.fbSize
  /-- The reserved bits of DIRTY are 0 (R29). -/
  dirtyInRange : s.dirty &&& pagesMask s.cfg = s.dirty
  /-- LAST_STATUS holds a code of R220 (R29). -/
  statusLegal : s.lastStatus ∈ statusCodes
  /-- FATAL_CAUSE holds a value of R27. -/
  causeLegal : s.fatalCause ∈ fatalCauses
  /-- In CLOSED no Transport is held and no flag is set (R22, R23, R195). -/
  closedIdle : s.ctl = .closed → s.transportHeld = false ∧ s.dirty = 0x00
  /-- While the framebuffer exists the Transport is held (R22) and FATAL_CAUSE is 0x00 (R27). -/
  runHeld : s.ctl.fbValid = true → s.transportHeld = true ∧ s.fatalCause = 0x00
  /-- In FAILED the Transport is held only if the failure came after OPEN succeeded (R22). -/
  failedCause : s.ctl = .failed →
    (s.fatalCause = 0x01 ∧ s.transportHeld = false) ∨ (s.fatalCause = 0x02 ∧ s.transportHeld = true)

/-! ## The state machine -/

/-- R222's table, command by command. -/
def legalFor : Instr → ControllerState → Bool
  | .cmdOpen, c => c == .closed
  | .cmdInit, c => c == .opening
  | .cmdFlush, c => c == .initialized || c == .streaming
  | .cmdClose, _ => true
  | .clear, c => c == .opening || c == .initialized || c == .streaming
  | .setPixel _ _ _, c => c == .opening || c == .initialized || c == .streaming
  | .fillRect _ _ _ _ _, c => c == .opening || c == .initialized || c == .streaming
  | .drawLine _ _ _ _ _, c => c == .opening || c == .initialized || c == .streaming
  | .drawCircle _ _ _ _, c => c == .opening || c == .initialized || c == .streaming
  | .drawGlyph _ _ _ _, c => c == .opening || c == .initialized || c == .streaming
  | .drawText _ _ _ _, c => c == .opening || c == .initialized || c == .streaming
  | .readByte _, c => c == .opening || c == .initialized || c == .streaming
  | .readReg _, _ => true

/-- R197's rows for a command that did not end in a non-fatal error: its status, STATE before and STATE
after. -/
def Moves (status : Byte) (before after : ControllerState) : Instr → Prop
  | .cmdOpen => before = .closed ∧
      ((status = 0x00 ∧ after = .opening) ∨ (status = 0x01 ∧ after = .failed))
  | .cmdInit => before = .opening ∧
      ((status = 0x00 ∧ after = .initialized) ∨ (status = 0x02 ∧ after = .failed))
  | .cmdFlush => (before = .initialized ∨ before = .streaming) ∧
      ((status = 0x00 ∧ after = .streaming) ∨ (status = 0x02 ∧ after = .failed))
  | .cmdClose => status = 0x00 ∧ after = .closed
  | .clear => status = 0x00 ∧ before.fbValid = true ∧ after = before
  | .setPixel _ _ _ => status = 0x00 ∧ before.fbValid = true ∧ after = before
  | .fillRect _ _ _ _ _ => status = 0x00 ∧ before.fbValid = true ∧ after = before
  | .drawLine _ _ _ _ _ => status = 0x00 ∧ before.fbValid = true ∧ after = before
  | .drawCircle _ _ _ _ => status = 0x00 ∧ before.fbValid = true ∧ after = before
  | .drawGlyph _ _ _ _ => status = 0x00 ∧ before.fbValid = true ∧ after = before
  | .drawText _ _ _ _ => status = 0x00 ∧ before.fbValid = true ∧ after = before
  | .readByte _ => status = 0x00 ∧ before.fbValid = true ∧ after = before
  | .readReg _ => status = 0x00 ∧ after = before

/-- The seven drawing commands of 41_rasterizer.md and 40_framebuffer.md. -/
def isDrawing : Instr → Bool
  | .cmdOpen => false
  | .cmdInit => false
  | .cmdFlush => false
  | .cmdClose => false
  | .clear => true
  | .setPixel _ _ _ => true
  | .fillRect _ _ _ _ _ => true
  | .drawLine _ _ _ _ _ => true
  | .drawCircle _ _ _ _ => true
  | .drawGlyph _ _ _ _ => true
  | .drawText _ _ _ _ => true
  | .readByte _ => false
  | .readReg _ => false

/-! ## The transport port -/

/-- The command bytes the core may send (R86). -/
def CommandByte (c : Config) (b : Byte) : Prop :=
  b ∈ initSeq ∨ (∃ p < c.pages, b = 0xB0 + BitVec.ofNat 8 p) ∨ b = 0x00 ∨ b = 0x10

/-- The frames the core may send (R83, R86): [ADDR_W, 0x00, b] with a command byte b, or
[ADDR_W, 0x40] and WIDTH bytes, where ADDR_W is DEV_ADDR shifted left by one (R82). -/
def FrameLegal (c : Config) (f : List Byte) : Prop :=
  (∃ b, CommandByte c b ∧ f = [BitVec.ofNat 8 (2 * c.devAddr.toNat), 0x00, b]) ∨
  ∃ d : List Byte, d.length = c.width ∧ f = [BitVec.ofNat 8 (2 * c.devAddr.toNat), 0x40] ++ d

/-- How often a kind of request stands in a log. -/
def countEvents (e : TransportEvent) (log : List TransportEvent) : Nat := log.count e

/-- What the transport stream has told a receiver: the page last selected, and for each page the payload
of the last data frame that was acknowledged for it (R83, R85, R186). -/
structure Mirror where
  selected : Option Nat
  shown    : Nat → Option (List Byte)

/-- What one request adds: a successful ACQUIRE starts a new run, of which nothing has been shown; an
acknowledged page-select frame selects its page; an acknowledged data frame is the selected page's. -/
def Mirror.after (m : Mirror) (e : TransportEvent) : Mirror :=
  match e with
  | .acquire true => { selected := none, shown := fun _ => none }
  | .frame [_, 0x00, b] true =>
      if 0xB0 ≤ b.toNat ∧ b.toNat ≤ 0xB7 then { m with selected := some (b.toNat - 0xB0) } else m
  | .frame (_ :: 0x40 :: d) true =>
      match m.selected with
      | some p => { m with shown := fun q => if q = p then some d else m.shown q }
      | none => m
  | _ => m

/-- What a whole log has told a receiver. -/
def mirror (log : List TransportEvent) : Mirror :=
  log.foldl Mirror.after { selected := none, shown := fun _ => none }

/-- While the framebuffer exists, a page whose DIRTY flag is clear holds the bytes the last acknowledged
data frame of that page carried in this run (R25, R59, R258). -/
def CleanPagesShown (s : State) : Prop :=
  s.ctl.fbValid = true → ∀ p < s.cfg.pages, dirtyAt s.dirty p = false →
    (mirror s.transport).shown p = some (pageBytes s.cfg s.fb p)

/-! ## The loop of DRAW_LINE -/

/-- R130's loop as the rule gives it, without a bound: `LineRun dx dy sx sy x1 y1 err x y pts` says that the
loop, at point (x, y) with error term err, PLOTs exactly the points of `pts`, in order, and ends. -/
inductive LineRun (dx dy sx sy x1 y1 : Int) : Int → Int → Int → List (Int × Int) → Prop where
  | atEnd (err : Int) : LineRun dx dy sx sy x1 y1 err x1 y1 [(x1, y1)]
  | advance {err x y e2 errA errB xA yB : Int} {rest : List (Int × Int)}
      (notEnd : ¬(x = x1 ∧ y = y1))
      (he2 : e2 = 2 * err)
      (stepX : if e2 > -dy then errA = err - dy ∧ xA = x + sx else errA = err ∧ xA = x)
      (stepY : if e2 < dx then errB = errA + dx ∧ yB = y + sy else errB = errA ∧ yB = y)
      (rest_run : LineRun dx dy sx sy x1 y1 errB xA yB rest) :
      LineRun dx dy sx sy x1 y1 err x y ((x, y) :: rest)

end Sys2Proof.Safety
end

