-- ==== Sys2Proof/Certificates/Slice0/Obligations.lean ====
section
/-! DEFINITION. The statements for the provers, from the numbered rules of spec/. The helpers under
Sys2Proof.Claims spell a rule's own words once; they call no meaning but `exec` and `step`. -/

namespace Sys2Proof.Claims

open Sys2Proof.Machine Sys2Proof.Safety

/-! ## Words the statements share -/

/-- STATE_ERROR at `s` (R222, R223): the response [0x11, 0x00], LAST_STATUS <- 0x11, nothing else. -/
def StateError (i : Instr) (s : State) : Prop :=
  exec i s = .next { s with lastStatus := 0x11, hostOut := s.hostOut ++ [⟨0x11, 0x00⟩] }

/-- pixel(x, y) = FB[x + (y / 8)*WIDTH][y % 8] (R50). -/
def lit (c : Config) (fb : Memory) (x y : Nat) : Bool :=
  (fb.read (x + y / 8 * c.width)).getLsbD (y % 8)

/-- A drawing command completes at `s` with status OK, having given every in-bounds pixel of the set `S`
the value `on`. It names all that changes: FB, DIRTY, LAST_STATUS and the response. Of FB, every pixel
outside `S` and every byte that holds no pixel of `S` keeps its value; DIRTY[p] is set exactly if it was
set or a byte of page p changed (R25, R101). -/
def Draws (i : Instr) (s : State) (on : Bool) (S : Int → Int → Prop) : Prop :=
  ∃ (fb : Memory) (dirty : Byte),
    exec i s = .next { s with
      fb := fb, dirty := dirty, lastStatus := 0x00, hostOut := s.hostOut ++ [⟨0x00, 0x00⟩] } ∧
    (∀ x y : Nat, x < s.cfg.width → y < s.cfg.height →
      (lit s.cfg fb x y = true ↔ (S x y ∧ on = true) ∨ (¬ S x y ∧ lit s.cfg s.fb x y = true))) ∧
    (∀ a : Nat,
      (∀ x y : Nat, x < s.cfg.width → y < s.cfg.height → S x y → x + y / 8 * s.cfg.width ≠ a) →
      fb.read a = s.fb.read a) ∧
    (∀ p < s.cfg.pages, (dirtyAt dirty p = true ↔ dirtyAt s.dirty p = true ∨
      ∃ c < s.cfg.width, fb.read (p * s.cfg.width + c) ≠ s.fb.read (p * s.cfg.width + c))) ∧
    (∀ p, s.cfg.pages ≤ p → dirtyAt dirty p = false)

/-- ADDR_W: DEV_ADDR shifted left by one (R82). -/
def addressByte (c : Config) : Byte := BitVec.ofNat 8 (2 * c.devAddr.toNat)

/-- The pages a FLUSH sends: every page with DIRTY_TRACKING = 0, the dirty ones otherwise (R185). -/
def sentPages (s : State) : List Nat :=
  (List.range s.cfg.pages).filter fun p => dirtyAt s.dirty p || !s.cfg.dirtyTracking

/-- The four frames of page p (R85, R186). -/
def pageFrames (s : State) (p : Nat) : List (List Byte) :=
  [[addressByte s.cfg, 0x00, 0xB0 + BitVec.ofNat 8 p],
   [addressByte s.cfg, 0x00, 0x00],
   [addressByte s.cfg, 0x00, 0x10],
   [addressByte s.cfg, 0x40] ++ (List.range s.cfg.width).map fun c => s.fb.read (p * s.cfg.width + c)]

/-- The frames of a FLUSH none of whose frames is answered false (R185, R186). -/
def flushFrames (s : State) : List (List Byte) := (sentPages s).flatMap (pageFrames s)

/-- The frames of an INIT none of whose frames is answered false (R182): one command frame per byte. -/
def initFrames (s : State) : List (List Byte) :=
  [0xAE, 0xD5, 0x80, 0xA8, 0x3F, 0xD3, 0x00, 0x40, 0x8D, 0x14, 0x20, 0x00, 0xA1, 0xC8, 0xDA, 0x12,
   0x81, 0xCF, 0xD9, 0xF1, 0xDB, 0x40, 0xA4, 0xA6, 0xAF].map fun b => [addressByte s.cfg, 0x00, b]

/-- Frames that were all answered true. -/
def acknowledged (fs : List (List Byte)) : List TransportEvent := fs.map fun f => .frame f true

/-- A command that has `fs` to send, and STATE `done` to enter: it sends all of them, or it sends the ones
before some frame and that frame, answered false, and enters FAILED (R171 to R173, R224). -/
def SendsUntilFalse (s t : State) (fs : List (List Byte)) (done : ControllerState) : Prop :=
  (t.transport = s.transport ++ acknowledged fs ∧ t.ctl = done ∧ t.lastStatus = 0x00 ∧
      t.fatalCause = s.fatalCause ∧ t.hostOut = s.hostOut ++ [⟨0x00, 0x00⟩]) ∨
    ∃ before f after, fs = before ++ f :: after ∧
      t.transport = s.transport ++ acknowledged before ++ [.frame f false] ∧
      t.ctl = .failed ∧ t.lastStatus = 0x02 ∧ t.fatalCause = 0x02 ∧
      t.hostOut = s.hostOut ++ [⟨0x02, 0x00⟩]

/-- R73's table of packet lengths, by opcode byte and count byte; none for a reserved opcode (R76). -/
def packetLength (opcode count : Byte) : Option Nat :=
  match opcode.toNat with
  | 0x01 => some 1
  | 0x02 => some 1
  | 0x03 => some 1
  | 0x04 => some 1
  | 0x10 => some 1
  | 0x11 => some 6
  | 0x12 => some 10
  | 0x13 => some 10
  | 0x14 => some 8
  | 0x15 => some (7 + count.toNat)
  | 0x16 => some (7 + count.toNat)
  | 0x20 => some 3
  | 0x21 => some 2
  | _ => none

/-- The reserved opcode values of R76. -/
def ReservedOpcode (b : Byte) : Prop :=
  b.toNat = 0x00 ∨ (0x05 ≤ b.toNat ∧ b.toNat ≤ 0x0F) ∨ (0x17 ≤ b.toNat ∧ b.toNat ≤ 0x1F) ∨
    0x22 ≤ b.toNat

/-- The reserved field values of R77, in a packet of its opcode's length. -/
def ReservedField (p : List Byte) : Prop :=
  (p[0]? = some 0x11 ∧ p[5]? ≠ some 0x00 ∧ p[5]? ≠ some 0x01) ∨
  (p[0]? = some 0x12 ∧ p[9]? ≠ some 0x00 ∧ p[9]? ≠ some 0x01) ∨
  (p[0]? = some 0x13 ∧ p[9]? ≠ some 0x00 ∧ p[9]? ≠ some 0x01) ∨
  (p[0]? = some 0x14 ∧ p[7]? ≠ some 0x00 ∧ p[7]? ≠ some 0x01) ∨
  (p[0]? = some 0x15 ∧ p[5]? ≠ some 0x00 ∧ p[5]? ≠ some 0x01) ∨
  (p[0]? = some 0x15 ∧ p[6]? ≠ some 0x05 ∧ p[6]? ≠ some 0x06) ∨
  (p[0]? = some 0x16 ∧ p[5]? = some 0x00)

/-- A packet of a length R75 allows: not empty, its opcode not reserved, and n the length of R73 for its
opcode and, at offset 6, its count byte. -/
def LengthAgrees (p : List Byte) : Prop :=
  ∃ b rest, p = b :: rest ∧
    if b = 0x15 ∨ b = 0x16 then ∃ count, p[6]? = some count ∧ packetLength b count = some p.length
    else packetLength b 0x00 = some p.length

/-- The state `s` takes the packet `p` next, with `rest` of the host's inputs behind it. -/
def Takes (s : State) (p : List Byte) (rest : List HostInput) : Prop :=
  s.cfg.Legal ∧ s.hostIn = .packet p :: rest

/-- The step of a packet that is illegal (R223): [0x10, 0x00], LAST_STATUS <- 0x10 unless the packet's
opcode is 0x21, and nothing else. -/
def IllegalCommand (s : State) (p : List Byte) (rest : List HostInput) : Prop :=
  step s = .next { s with
    hostIn := rest
    lastStatus := if p.head? = some 0x21 then s.lastStatus else 0x10
    hostOut := s.hostOut ++ [⟨0x10, 0x00⟩] }

/-- A command of two 16-bit fields: the bytes of a field, low byte first (R71). -/
def bytesOf (h : Half) : List Byte := [BitVec.ofNat 8 h.toNat, BitVec.ofNat 8 (h.toNat / 256)]

end Sys2Proof.Claims

open Sys2Proof Sys2Proof.Machine Sys2Proof.Safety Sys2Proof.Claims

/-! ## Encoding -/

/-- R71 to R74: no field is dropped. The packet of every well-formed command decodes to that command. -/
def Obligations.EncodedCommandDecodesToItself : Prop :=
  ∀ i : Instr, i.wf = true → decode (encode i) = .ok i

/-- R71 to R77: a packet has one meaning. A packet that decodes is the packet of the command it decodes to,
and that command is well-formed. -/
def Obligations.DecodedPacketIsItsCommandsEncoding : Prop :=
  ∀ (p : List Byte) (i : Instr), decode p = .ok i → encode i = p ∧ i.wf = true

/-- R72, R73: packets written out from the table decode to the commands they stand for (95_test_vectors.md
E1, E4 to E11). -/
def Obligations.PacketsOfTheTableDecode : Prop :=
  decode [0x01] = .ok .cmdOpen ∧ decode [0x02] = .ok .cmdInit ∧ decode [0x03] = .ok .cmdFlush ∧
  decode [0x04] = .ok .cmdClose ∧ decode [0x10] = .ok .clear ∧
  decode [0x11, 0xFF, 0xFF, 0x00, 0x00, 0x01] = .ok (.setPixel (-1) 0 true) ∧
  decode [0x12, 0x00, 0x00, 0x00, 0x00, 0xFD, 0xFF, 0x04, 0x00, 0x01] = .ok (.fillRect 0 0 (-3) 4 true) ∧
  decode [0x13, 0x00, 0x00, 0x0F, 0x00, 0x7F, 0x00, 0x0F, 0x00, 0x01] = .ok (.drawLine 0 15 127 15 true) ∧
  decode [0x14, 0x40, 0x00, 0x28, 0x00, 0x03, 0x00, 0x01] = .ok (.drawCircle 64 40 3 true) ∧
  decode [0x15, 0x00, 0x00, 0x00, 0x00, 0x01, 0x05, 0x7E, 0x11, 0x11, 0x11, 0x7E] =
    .ok (.drawGlyph 0 0 true [0x7E, 0x11, 0x11, 0x11, 0x7E]) ∧
  decode [0x16, 0x00, 0x00, 0x00, 0x00, 0x01, 0x02, 0x41, 0x42] = .ok (.drawText 0 0 1 [0x41, 0x42]) ∧
  decode [0x20, 0xFF, 0x03] = .ok (.readByte 1023) ∧ decode [0x21, 0x09] = .ok (.readReg 0x09)

/-- R76: a packet with a reserved opcode executes nothing and returns ILLEGAL_COMMAND; and no other opcode
value is reserved: each of them begins some packet that decodes. -/
def Obligations.ReservedOpcodesAreIllegal : Prop :=
  (∀ (s : State) (b : Byte) (tail : List Byte) (rest : List HostInput),
    Takes s (b :: tail) rest → ReservedOpcode b → IllegalCommand s (b :: tail) rest) ∧
  ∀ b : Byte, ¬ ReservedOpcode b → ∃ tail i, decode (b :: tail) = .ok i

/-- R75: a packet whose length is not its opcode's is illegal, the empty packet and a packet too short to
hold its count byte among them. -/
def Obligations.WrongLengthIsIllegal : Prop :=
  ∀ (s : State) (p : List Byte) (rest : List HostInput),
    Takes s p rest → ¬ LengthAgrees p → IllegalCommand s p rest

/-- R77: of the packets of a right length, exactly those with a reserved field value are illegal; every
other value of every field decodes. -/
def Obligations.OnlyReservedFieldsAreIllegal : Prop :=
  ∀ p : List Byte, LengthAgrees p → ((∃ i, decode p = .ok i) ↔ ¬ ReservedField p)

/-! ## The step -/

/-- R11, R70: a step takes one packet off the host port and, where it decodes, is `exec` of the command. -/
def Obligations.StepRunsTheDecodedCommand : Prop :=
  ∀ (s : State) (p : List Byte) (rest : List HostInput) (i : Instr),
    Takes s p rest → decode p = .ok i → step s = exec i { s with hostIn := rest }

/-- R221, R223, R26: a step that takes a packet which does not decode returns [0x10, 0x00], records 0x10 in
LAST_STATUS unless the packet's opcode is 0x21, and changes nothing else. -/
def Obligations.UndecodedPacketIsIllegalCommand : Prop :=
  ∀ (s : State) (p : List Byte) (rest : List HostInput) (e : DecodeError),
    Takes s p rest → decode p = .error e → IllegalCommand s p rest

/-- The model's conventions of log 4 and log 2: with no input presented the core waits, its state
unchanged (R250 "waits for the first packet"); a build outside R6's ranges is refused. -/
def Obligations.StepWaitsAndRefusesIllegalBuilds : Prop :=
  (∀ s : State, s.cfg.Legal → s.hostIn = [] → step s = .next s) ∧
  ∀ s : State, ¬ s.cfg.Legal → step s = .refused .illegalConfiguration

/-- R260: "every command ends, provided each Transport request is answered"; R228: there is no trap. Every
step of a legal build answers a next state. That each request is answered is R262's assumption, built into
the model's answers (log 3: DESIGN CHOICE); that a step with no packet presented answers is the model's
choice (log 4: DESIGN CHOICE), and that there is no fault to end in is read from R228, R223 and R224
(log 19: DEDUCED). -/
def Obligations.EveryStepOfALegalBuildAnswers : Prop :=
  ∀ s : State, s.cfg.Legal → ∃ t, step s = .next t

/-- R250, R34: a reset between commands puts every piece of the core's state to its reset value, whatever it
was, and issues no Transport request. Of FB nothing is said (R34 "unspecified"; log 7), nor of the model's
count of free values; that the ports' lists stay as they are is the model's choice (log 8). -/
def Obligations.ResetEventRestoresTheResetValues : Prop :=
  ∀ (s : State) (rest : List HostInput), s.cfg.Legal → s.hostIn = .reset :: rest →
    ∃ (fb : Memory) (draws : Nat), step s = .next { s with
      ctl := .closed, transportHeld := false, fb := fb, dirty := 0x00, lastStatus := 0x00,
      fatalCause := 0x00, hostIn := rest, draws := draws }

/-! ## The whole machine -/

/-- The invariant holds right after reset (R34), and there is then no framebuffer whose clean pages could
differ from what was sent. -/
def Obligations.ResetMeetsTheInvariant : Prop := CoreInv State.reset ∧ CleanPagesShown State.reset

/-- Every step keeps the invariant: the registers hold legal values (R27, R29), the Transport is held exactly
as R22 and R23 say, FB stays in its range and canonical, the reserved bits of DIRTY stay 0. -/
def Obligations.StepKeepsTheInvariant : Prop :=
  ∀ s t : State, CoreInv s → step s = .next t → CoreInv t

/-- R25, R59, R258: DIRTY[p] = 0 means no byte of page p has changed since page p was last sent. Every step
keeps it that each clean page holds what the last acknowledged data frame of that page in this run carried. -/
def Obligations.StepKeepsCleanPagesAsShown : Prop :=
  ∀ s t : State, CoreInv s → CleanPagesShown s → step s = .next t → CleanPagesShown t

/-- R29, R31, R58: the configuration registers and the font "never change": no step writes them. -/
def Obligations.NoStepChangesTheBuild : Prop :=
  ∀ s t : State, step s = .next t → t.cfg = s.cfg

/-- R78: every packet, legal or not, returns exactly one response of two bytes: a status code of R220 and a
data byte. The data byte is the byte read for a READ_BYTE or READ_REG that returns OK, and 0x00 in every
other case. -/
def Obligations.EveryPacketReturnsOneResponse : Prop :=
  ∀ (s t : State) (p : List Byte) (rest : List HostInput), Takes s p rest → step s = .next t →
    ∃ r : Response, t.hostOut = s.hostOut ++ [r] ∧ r.status ∈ statusCodes ∧
      (∀ idx, decode p = .ok (.readByte idx) → r.status = 0x00 → r.data = s.fb.read idx.toNat) ∧
      (∀ reg, decode p = .ok (.readReg reg) → r.status = 0x00 → regVal s reg = some r.data) ∧
      (r.data ≠ 0x00 → r.status = 0x00 ∧
        ((∃ idx, decode p = .ok (.readByte idx)) ∨ ∃ reg, decode p = .ok (.readReg reg)))

/-- R26: after a packet LAST_STATUS holds that packet's status, unless its opcode is 0x21, which never
changes it, even when refused. -/
def Obligations.LastStatusIsThatOfTheLastOtherPacket : Prop :=
  ∀ (s t : State) (p : List Byte) (rest : List HostInput) (r : Response),
    Takes s p rest → step s = .next t → t.hostOut = s.hostOut ++ [r] →
    t.lastStatus = if p.head? = some 0x21 then s.lastStatus else r.status

/-- R27: entry to FAILED sets FATAL_CAUSE to the cause, a successful OPEN clears it to 0x00, and nothing else
writes it, CLOSE included. -/
def Obligations.FatalCauseIsWrittenByFailureAndOpenOnly : Prop :=
  ∀ (s t : State) (p : List Byte) (rest : List HostInput) (r : Response),
    CoreInv s → Takes s p rest → step s = .next t → t.hostOut = s.hostOut ++ [r] →
    t.fatalCause ∈ fatalCauses ∧
    t.fatalCause =
      if r.status = 0x01 ∨ r.status = 0x02 then r.status
      else if decode p = .ok .cmdOpen ∧ r.status = 0x00 then 0x00
      else s.fatalCause

/-- R23: TRANSPORT_HELD is set by a successful acquire in OPEN, cleared by CLOSE, and changed by no other
packet; a failed acquire leaves it 0. -/
def Obligations.TransportIsHeldFromOpenToClose : Prop :=
  ∀ (s t : State) (p : List Byte) (rest : List HostInput) (r : Response),
    CoreInv s → Takes s p rest → step s = .next t → t.hostOut = s.hostOut ++ [r] →
    t.transportHeld =
      if decode p = .ok .cmdOpen ∧ r.status = 0x00 then true
      else if decode p = .ok .cmdClose then false
      else s.transportHeld

/-- R190 "The Transport is released exactly once per successful ACQUIRE": over any packet, the successful
ACQUIREs and the RELEASEs of the log differ by whether the Transport is held. -/
def Obligations.AcquiresAndReleasesBalance : Prop :=
  ∀ (s t : State) (p : List Byte) (rest : List HostInput),
    CoreInv s → Takes s p rest → step s = .next t →
    countEvents (.acquire true) t.transport + countEvents .release s.transport + s.transportHeld.toNat =
      countEvents (.acquire true) s.transport + countEvents .release t.transport + t.transportHeld.toNat

/-- R197, R223: STATE moves only as R197's table says, and a command that returns a non-fatal error never
changes it. -/
def Obligations.StateMovesOnlyAsTheTableSays : Prop :=
  ∀ (s t : State) (i : Instr) (r : Response),
    exec i s = .next t → t.hostOut = s.hostOut ++ [r] →
    if r.status = 0x10 ∨ r.status = 0x11 ∨ r.status = 0x12 then t.ctl = s.ctl
    else Moves r.status s.ctl t.ctl i

/-- R229: the only packet that leaves FAILED is CLOSE, to CLOSED, and no packet taken in FAILED raises a
fatal error. -/
def Obligations.OnlyCloseLeavesFailed : Prop :=
  ∀ (s t : State) (p : List Byte) (rest : List HostInput) (r : Response),
    s.ctl = .failed → Takes s p rest → step s = .next t → t.hostOut = s.hostOut ++ [r] →
    t.ctl = (if decode p = .ok .cmdClose then .closed else .failed) ∧ r.status ≠ 0x01 ∧ r.status ≠ 0x02

/-- R222: a command marked "-" for the present STATE raises STATE_ERROR and changes nothing but
LAST_STATUS; a command marked "yes" does not raise it. -/
def Obligations.StateErrorExactlyOutsideTheTable : Prop :=
  (∀ (i : Instr) (s : State), legalFor i s.ctl = false → StateError i s) ∧
  ∀ (i : Instr) (s : State), legalFor i s.ctl = true →
    ∃ t r, exec i s = .next t ∧ t.hostOut = s.hostOut ++ [r] ∧ r.status ≠ 0x11

/-- R223: a packet that ends in a non-fatal error has the response [code, 0x00], writes LAST_STATUS unless
its opcode is 0x21, and changes no other state and issues no Transport request. -/
def Obligations.NonFatalErrorsArePrecise : Prop :=
  ∀ (s t : State) (p : List Byte) (rest : List HostInput) (r : Response),
    Takes s p rest → step s = .next t → t.hostOut = s.hostOut ++ [r] →
    (r.status = 0x10 ∨ r.status = 0x11 ∨ r.status = 0x12) →
    r.data = 0x00 ∧
    t = { s with
      hostIn := rest
      lastStatus := if p.head? = some 0x21 then s.lastStatus else r.status
      hostOut := s.hostOut ++ [r] }

/-- R224: a packet that ends in a fatal error has entered FAILED with its code in FATAL_CAUSE, LAST_STATUS
and the response [code, 0x00]. FB and TRANSPORT_HELD are unchanged, DIRTY flags are only cleared, and of
the requests it issued the last, and only the last, was answered false. -/
def Obligations.FatalErrorsEnterFailed : Prop :=
  ∀ (s t : State) (p : List Byte) (rest : List HostInput) (r : Response),
    Takes s p rest → step s = .next t → t.hostOut = s.hostOut ++ [r] →
    (r.status = 0x01 ∨ r.status = 0x02) →
    r.data = 0x00 ∧ t.ctl = .failed ∧ t.fatalCause = r.status ∧ t.lastStatus = r.status ∧
    t.fb = s.fb ∧ t.transportHeld = s.transportHeld ∧ t.cfg = s.cfg ∧
    (∀ q, dirtyAt t.dirty q = true → dirtyAt s.dirty q = true) ∧
    ∃ (before : List (List Byte)) (last : TransportEvent),
      t.transport = s.transport ++ acknowledged before ++ [last] ∧
      if r.status = 0x01 then before = [] ∧ last = .acquire false else ∃ f, last = .frame f false

/-- R83, R86: whatever step the core takes, every frame it sends is a command frame of 3 bytes with a
command byte of R86, or a data frame of WIDTH + 2 bytes; nothing else is ever sent. -/
def Obligations.EveryFrameSentIsOfTheTwoKinds : Prop :=
  ∀ s t : State, step s = .next t →
    ∃ log, t.transport = s.transport ++ log ∧
      ∀ f ok, TransportEvent.frame f ok ∈ log → FrameLegal s.cfg f

/-- R102, R54, R256: a drawing command, whatever the state, changes nothing but FB, DIRTY, LAST_STATUS and
the host port's response: no configuration, no STATE, no TRANSPORT_HELD, no FATAL_CAUSE, no Transport
request. -/
def Obligations.DrawingChangesOnlyTheFramebuffer : Prop :=
  ∀ (i : Instr) (s t : State), isDrawing i = true → exec i s = .next t →
    t = { s with fb := t.fb, dirty := t.dirty, lastStatus := t.lastStatus, hostOut := t.hostOut }

/-! ## The controller commands -/

/-- R180: OPEN in CLOSED issues one ACQUIRE, whose answer is the Transport's. Answered true: the Transport is
held, every byte of FB is 0x00, every DIRTY flag is set, FATAL_CAUSE is 0x00, STATE is OPENING, status OK.
Answered false: FAILED with RESOURCE_UNAVAILABLE, TRANSPORT_HELD and FB as they were. In any other state:
STATE_ERROR. Where the list of answers has ended the answer is a free value (log 3). -/
def Obligations.OpenAcquiresTheTransport : Prop :=
  (∀ s : State, s.cfg.Legal → s.ctl = .closed →
    ∃ ok answers draws,
      (s.answers = ok :: answers ∨ (s.answers = [] ∧ answers = [])) ∧
      if ok = true then
        ∃ (fb : Memory) (dirty : Byte),
          exec .cmdOpen s = .next { s with
            answers := answers, draws := draws, transport := s.transport ++ [.acquire true],
            transportHeld := true, fb := fb, dirty := dirty, fatalCause := 0x00, ctl := .opening,
            lastStatus := 0x00, hostOut := s.hostOut ++ [⟨0x00, 0x00⟩] } ∧
          (∀ a, fb.read a = 0x00) ∧ ∀ p, dirtyAt dirty p = decide (p < s.cfg.pages)
      else
        exec .cmdOpen s = .next { s with
          answers := answers, draws := draws, transport := s.transport ++ [.acquire false],
          fatalCause := 0x01, ctl := .failed, lastStatus := 0x01,
          hostOut := s.hostOut ++ [⟨0x01, 0x00⟩] }) ∧
  (∀ s : State, s.ctl ≠ .closed → StateError .cmdOpen s) ∧
  encode .cmdOpen = [0x01]

/-- R182, R253: INIT in OPENING, every frame answered true, sends the 25 bytes of INIT_SEQ in order, each in
a command frame of its own, and enters INITIALIZED with status OK. With frame k the first answered false,
it has sent the frames up to and including that one and ends in FAILED with TRANSMISSION_FAILURE. FB and
DIRTY are unchanged. In any other state: STATE_ERROR. -/
def Obligations.InitReplaysTheSequence : Prop :=
  (∀ (s : State) (answers : List Bool), s.ctl = .opening →
    s.answers = List.replicate 25 true ++ answers →
    exec .cmdInit s = .next { s with
      answers := answers, transport := s.transport ++ acknowledged (initFrames s),
      ctl := .initialized, lastStatus := 0x00, hostOut := s.hostOut ++ [⟨0x00, 0x00⟩] }) ∧
  (∀ (s : State) (k : Nat) (answers : List Bool), s.ctl = .opening → k < 25 →
    s.answers = List.replicate k true ++ false :: answers →
    exec .cmdInit s = .next { s with
      answers := answers
      transport := s.transport ++ acknowledged ((initFrames s).take k) ++
        [.frame ((initFrames s).getD k []) false]
      ctl := .failed, fatalCause := 0x02, lastStatus := 0x02,
      hostOut := s.hostOut ++ [⟨0x02, 0x00⟩] }) ∧
  (∀ s : State, s.ctl ≠ .opening → StateError .cmdInit s) ∧
  encode .cmdInit = [0x02]

/-- R185, R186: FLUSH in INITIALIZED or STREAMING, every frame answered true, sends for each page, in
increasing order (with DIRTY_TRACKING = 1, for each dirty page), the command frames 0xB0 + p, 0x00 and
0x10 and one data frame of the page's WIDTH bytes; every DIRTY flag is then clear, STATE is STREAMING and
the status OK; FB is unchanged. This holds when no page is sent too. With frame k the first answered false,
it has sent the frames up to and including that one and ends in FAILED with TRANSMISSION_FAILURE; the pages
sent before it (k / 4 of them) have DIRTY = 0, the failing page and the pages after it keep their flags. In
any other state: STATE_ERROR. -/
def Obligations.FlushSendsTheDirtyPages : Prop :=
  (∀ (s : State) (answers : List Bool), CoreInv s → (s.ctl = .initialized ∨ s.ctl = .streaming) →
    s.answers = List.replicate (4 * (sentPages s).length) true ++ answers →
    exec .cmdFlush s = .next { s with
      answers := answers, transport := s.transport ++ acknowledged (flushFrames s),
      dirty := 0x00, ctl := .streaming, lastStatus := 0x00,
      hostOut := s.hostOut ++ [⟨0x00, 0x00⟩] }) ∧
  (∀ (s : State) (k : Nat) (answers : List Bool), CoreInv s →
    (s.ctl = .initialized ∨ s.ctl = .streaming) → k < 4 * (sentPages s).length →
    s.answers = List.replicate k true ++ false :: answers →
    ∃ dirty : Byte,
      exec .cmdFlush s = .next { s with
        answers := answers
        transport := s.transport ++ acknowledged ((flushFrames s).take k) ++
          [.frame ((flushFrames s).getD k []) false]
        dirty := dirty, ctl := .failed, fatalCause := 0x02, lastStatus := 0x02,
        hostOut := s.hostOut ++ [⟨0x02, 0x00⟩] } ∧
      ∀ p, dirtyAt dirty p = (dirtyAt s.dirty p && !(decide (p ∈ (sentPages s).take (k / 4))))) ∧
  (∀ s : State, s.ctl ≠ .initialized → s.ctl ≠ .streaming → StateError .cmdFlush s) ∧
  encode .cmdFlush = [0x03]

/-- R171 to R173, R224: whatever the Transport answers, INIT in OPENING and FLUSH in INITIALIZED or STREAMING
complete; each sends its frames in order up to the end or up to the first one answered false, and never a
frame after that. -/
def Obligations.FramesStopAtTheFirstFalseAnswer : Prop :=
  (∀ s : State, s.ctl = .opening →
    ∃ t, exec .cmdInit s = .next t ∧ SendsUntilFalse s t (initFrames s) .initialized ∧
      t.fb = s.fb ∧ t.dirty = s.dirty ∧ t.transportHeld = s.transportHeld) ∧
  ∀ s : State, CoreInv s → (s.ctl = .initialized ∨ s.ctl = .streaming) →
    ∃ t, exec .cmdFlush s = .next t ∧ SendsUntilFalse s t (flushFrames s) .streaming ∧
      t.fb = s.fb ∧ t.transportHeld = s.transportHeld

/-- R188: a completed INIT emits 25 command frames, 75 bytes; a completed FLUSH emits 4 frames per page sent,
9 + (WIDTH + 2) bytes per page. -/
def Obligations.FrameCountsOfInitAndFlush : Prop :=
  (∀ s t : State, s.ctl = .opening → exec .cmdInit s = .next t → t.ctl = .initialized →
    ∃ fs, t.transport = s.transport ++ acknowledged fs ∧ fs.length = 25 ∧ fs.flatten.length = 75) ∧
  ∀ s t : State, CoreInv s → (s.ctl = .initialized ∨ s.ctl = .streaming) → exec .cmdFlush s = .next t →
    t.ctl = .streaming →
    ∃ fs, t.transport = s.transport ++ acknowledged fs ∧ fs.length = 4 * (sentPages s).length ∧
      fs.flatten.length = (9 + (s.cfg.width + 2)) * (sentPages s).length

/-- R190: CLOSE is legal in every state and returns OK. It issues RELEASE if, and only if, the Transport is
held, clears TRANSPORT_HELD and every DIRTY flag, and enters CLOSED; FATAL_CAUSE is unchanged and no frame
is sent. FB is unspecified afterwards: nothing is said of it, nor of the model's count of free values
(log 7). -/
def Obligations.CloseReleasesTheTransport : Prop :=
  (∀ s : State, ∃ (fb : Memory) (draws : Nat),
    exec .cmdClose s = .next { s with
      transport := if s.transportHeld = true then s.transport ++ [.release] else s.transport
      transportHeld := false, dirty := 0x00, ctl := .closed, lastStatus := 0x00, fb := fb,
      draws := draws, hostOut := s.hostOut ++ [⟨0x00, 0x00⟩] }) ∧
  encode .cmdClose = [0x04]

/-- R195, R29: READ_REG is legal in every state and changes nothing at all. For 0x00 to 0x09 it returns OK
and the register of R29's table, reserved bits 0; for any other number [0x12, 0x00]. -/
def Obligations.ReadRegReturnsTheRegisterMap : Prop :=
  (∀ s : State, CoreInv s →
    let returns := fun (reg : Byte) (status v : Byte) =>
      exec (.readReg reg) s = .next { s with hostOut := s.hostOut ++ [⟨status, v⟩] }
    let code : Nat :=
      match s.ctl with
      | .closed => 0
      | .opening => 1
      | .initialized => 2
      | .streaming => 3
      | .failed => 4
    returns 0x00 0x00 (BitVec.ofNat 8 (code + 8 * s.transportHeld.toNat)) ∧
    returns 0x01 0x00 s.lastStatus ∧
    returns 0x02 0x00 s.fatalCause ∧
    returns 0x03 0x00 (BitVec.ofNat 8 s.cfg.width) ∧
    returns 0x04 0x00 (BitVec.ofNat 8 s.cfg.height) ∧
    returns 0x05 0x00 (BitVec.ofNat 8 (s.cfg.height / 8)) ∧
    returns 0x06 0x00 (BitVec.ofNat 8 s.cfg.devAddr.toNat) ∧
    returns 0x07 0x00 (BitVec.ofNat 8 (s.cfg.dirtyTracking.toNat +
      16 * (if s.cfg.glyphWidth = .five then 5 else 6))) ∧
    returns 0x08 0x00 s.cfg.textSpacing ∧
    returns 0x09 0x00 s.dirty ∧
    ∀ reg : Byte, 0x0A ≤ reg.toNat → returns reg 0x12 0x00) ∧
  ∀ reg, encode (.readReg reg) = [0x21, reg]

/-! ## The framebuffer and rasterizer commands -/

/-- R50: pixel (x, y) is bit y % 8 of FB[x + (y / 8)*WIDTH], and the map from (x, y) to (index, bit) is a
bijection from the pixels onto [0, WIDTH*PAGES) × [0, 8): every pixel has a place, every place has a pixel,
and only one. -/
def Obligations.PixelLayoutIsABijection : Prop :=
  ∀ c : Config, c.Legal →
    (∀ x y, x < c.width → y < c.height →
      pixelIndex c x y = x + y / 8 * c.width ∧ pixelBit y = y % 8 ∧
      pixelIndex c x y < c.width * (c.height / 8) ∧ pixelBit y < 8 ∧
      ∀ fb : Memory, pixelAt c fb x y = (fb.read (x + y / 8 * c.width)).getLsbD (y % 8)) ∧
    ∀ a b, a < c.width * (c.height / 8) → b < 8 →
      ∃ x y, (x < c.width ∧ y < c.height ∧ pixelIndex c x y = a ∧ pixelBit y = b) ∧
        ∀ x' y', x' < c.width → y' < c.height → pixelIndex c x' y' = a → pixelBit y' = b →
          x' = x ∧ y' = y

/-- R101: MemWrite(i, 1, v) gives byte i the value v and leaves every other byte alone; it sets the flag of
the byte's page if the value changed, and leaves every other flag alone, clearing none. -/
def Obligations.MemWriteSetsDirtyOnChange : Prop :=
  ∀ (cfg : Config) (c : Canvas) (i : Nat) (v : Byte), cfg.Legal → c.fb.wf → i < cfg.fbSize →
    let d := memWrite cfg i v c
    d.fb.wf ∧ (∀ j, d.fb.read j = if j = i then v else c.fb.read j) ∧
      ∀ p, dirtyAt d.dirty p = (dirtyAt c.dirty p || (decide (p = i / cfg.width) && decide (v ≠ c.fb.read i)))

/-- R102, R107: PLOT of a point out of bounds changes no byte and no flag. PLOT of a point in bounds changes
exactly one lane of one byte, to `on`, and leaves the other seven lanes and every other byte unchanged; it
sets the flag of the point's page if a byte changed, and no other. -/
def Obligations.PlotChangesOneLane : Prop :=
  ∀ (cfg : Config) (c : Canvas) (x y : Int) (on : Bool), cfg.Legal → c.fb.wf →
    let d := plot cfg on c (x, y)
    if (0 ≤ x ∧ x < cfg.width) ∧ (0 ≤ y ∧ y < cfg.height) then
      (∀ i k, (d.fb.read i).getLsbD k =
        if i = x.toNat + y.toNat / 8 * cfg.width ∧ k = y.toNat % 8 then on
        else (c.fb.read i).getLsbD k) ∧
      ∀ p, (dirtyAt d.dirty p = true ↔
        dirtyAt c.dirty p = true ∨ (p = y.toNat / 8 ∧ ∃ i, d.fb.read i ≠ c.fb.read i))
    else d = c

/-- R109: the order in which a command visits its pixels is not observable. Two lists of the same points,
in any order and with any repetitions, leave the same FB and the same DIRTY flags. -/
def Obligations.PlotOrderIsNotObservable : Prop :=
  ∀ (cfg : Config) (c : Canvas) (on : Bool) (ps qs : List (Int × Int)), cfg.Legal → c.fb.wf →
    (∀ pt, pt ∈ ps ↔ pt ∈ qs) → plotAll cfg on ps c = plotAll cfg on qs c

/-- R137: of two issues of the same drawing command, with the same operands, the second changes nothing but
the host port's list of responses. -/
def Obligations.SecondIssueOfADrawingChangesNothing : Prop :=
  ∀ (i : Instr) (s : State), CoreInv s → s.ctl.fbValid = true → isDrawing i = true →
    ∃ t, exec i s = .next t ∧ exec i t = .next { t with hostOut := t.hostOut ++ [⟨0x00, 0x00⟩] }

/-- R103: CLEAR sets every byte of FB to 0, sets DIRTY of every page that held a nonzero byte, and returns
OK; where there is no framebuffer, STATE_ERROR. -/
def Obligations.ClearDarkensEveryPixel : Prop :=
  (∀ s : State, CoreInv s → s.ctl.fbValid = true → Draws .clear s false fun _ _ => True) ∧
  (∀ s : State, s.ctl.fbValid = false → StateError .clear s) ∧
  encode .clear = [0x10]

/-- R104: SET_PIXEL gives the pixel (x, y) the value on and changes no other; out of bounds it changes
nothing and returns OK. Where there is no framebuffer, STATE_ERROR; on ∉ {0, 1} does not decode. -/
def Obligations.SetPixelChangesOnePixel : Prop :=
  (∀ (x y : Half) (on : Bool) (s : State), CoreInv s → s.ctl.fbValid = true →
    Draws (.setPixel x y on) s on fun px py => px = x.toInt ∧ py = y.toInt) ∧
  (∀ (x y : Half) (on : Bool) (s : State), s.ctl.fbValid = false → StateError (.setPixel x y on) s) ∧
  ∀ (x y : Half) (b : Byte),
    decode (0x11 :: (bytesOf x ++ bytesOf y ++ [b])) =
      if b = 0x00 then .ok (.setPixel x y false)
      else if b = 0x01 then .ok (.setPixel x y true) else .error .reservedOn

/-- R105, R108: FILL_RECT gives every pixel of [x, x + w) × [y, y + h) that is in bounds the value on, the
sums exact; w ≤ 0 or h ≤ 0 draws nothing. Where there is no framebuffer, STATE_ERROR; on ∉ {0, 1} does
not decode. -/
def Obligations.FillRectFillsTheRectangle : Prop :=
  (∀ (x y w h : Half) (on : Bool) (s : State), CoreInv s → s.ctl.fbValid = true →
    Draws (.fillRect x y w h on) s on fun px py =>
      (x.toInt ≤ px ∧ px < x.toInt + w.toInt) ∧ (y.toInt ≤ py ∧ py < y.toInt + h.toInt)) ∧
  (∀ (x y w h : Half) (on : Bool) (s : State), s.ctl.fbValid = false →
    StateError (.fillRect x y w h on) s) ∧
  ∀ (x y w h : Half) (b : Byte),
    decode (0x12 :: (bytesOf x ++ bytesOf y ++ bytesOf w ++ bytesOf h ++ [b])) =
      if b = 0x00 then .ok (.fillRect x y w h false)
      else if b = 0x01 then .ok (.fillRect x y w h true) else .error .reservedOn

/-- R130: DRAW_LINE's loop, run as the rule gives it and without a bound, ends; the command gives exactly the
in-bounds points it PLOTs the value on. Where there is no framebuffer, STATE_ERROR; on ∉ {0, 1} does not
decode. -/
def Obligations.DrawLinePlotsTheBresenhamLoop : Prop :=
  (∀ (x0 y0 x1 y1 : Half) (on : Bool) (s : State), CoreInv s → s.ctl.fbValid = true →
    ∃ pts : List (Int × Int),
      LineRun |x1.toInt - x0.toInt| |y1.toInt - y0.toInt|
        (if x0.toInt < x1.toInt then 1 else -1) (if y0.toInt < y1.toInt then 1 else -1)
        x1.toInt y1.toInt (|x1.toInt - x0.toInt| - |y1.toInt - y0.toInt|) x0.toInt y0.toInt pts ∧
      Draws (.drawLine x0 y0 x1 y1 on) s on fun px py => (px, py) ∈ pts) ∧
  (∀ (x0 y0 x1 y1 : Half) (on : Bool) (s : State), s.ctl.fbValid = false →
    StateError (.drawLine x0 y0 x1 y1 on) s) ∧
  ∀ (x0 y0 x1 y1 : Half) (b : Byte),
    decode (0x13 :: (bytesOf x0 ++ bytesOf y0 ++ bytesOf x1 ++ bytesOf y1 ++ [b])) =
      if b = 0x00 then .ok (.drawLine x0 y0 x1 y1 false)
      else if b = 0x01 then .ok (.drawLine x0 y0 x1 y1 true) else .error .reservedOn

/-- R131: the points R130's loop plots (LineRun; DrawLinePlotsTheBresenhamLoop ties it to exec) number
max(dx, dy) + 1, are pairwise distinct, begin at (x0, y0) and end at (x1, y1); each differs from the next by
at most 1 in x and in y, in the direction of the line. R131 marks these properties as found by enumeration
over endpoints in -12..12 and at the 16-bit extremes: "They are not proved here". -/
def Obligations.LineVisitsEachPointOnce : Prop :=
  ∀ (x0 y0 x1 y1 : Int) (pts : List (Int × Int)),
    LineRun |x1 - x0| |y1 - y0| (if x0 < x1 then 1 else -1) (if y0 < y1 then 1 else -1) x1 y1
      (|x1 - x0| - |y1 - y0|) x0 y0 pts →
    (pts.length : Int) = max |x1 - x0| |y1 - y0| + 1 ∧ pts.Nodup ∧
    pts.head? = some (x0, y0) ∧ pts.getLast? = some (x1, y1) ∧
    pts.IsChain fun p q =>
      (q.1 = p.1 ∨ q.1 = p.1 + (if x0 < x1 then 1 else -1)) ∧
      (q.2 = p.2 ∨ q.2 = p.2 + (if y0 < y1 then 1 else -1))

/-- R132: DRAW_CIRCLE gives every in-bounds pixel within distance r of (cx, cy), edge included, the value on;
r < 0 draws nothing. Where there is no framebuffer, STATE_ERROR; on ∉ {0, 1} does not decode. -/
def Obligations.DrawCircleFillsTheDisc : Prop :=
  (∀ (cx cy r : Half) (on : Bool) (s : State), CoreInv s → s.ctl.fbValid = true →
    Draws (.drawCircle cx cy r on) s on fun px py =>
      0 ≤ r.toInt ∧ (px - cx.toInt) ^ 2 + (py - cy.toInt) ^ 2 ≤ r.toInt ^ 2) ∧
  (∀ (cx cy r : Half) (on : Bool) (s : State), s.ctl.fbValid = false →
    StateError (.drawCircle cx cy r on) s) ∧
  ∀ (cx cy r : Half) (b : Byte),
    decode (0x14 :: (bytesOf cx ++ bytesOf cy ++ bytesOf r ++ [b])) =
      if b = 0x00 then .ok (.drawCircle cx cy r false)
      else if b = 0x01 then .ok (.drawCircle cx cy r true) else .error .reservedOn

/-- R134: DRAW_GLYPH gives the pixel (x + c, y + k) the value on for every set bit k of every column byte c;
a 0 bit plots nothing. Where there is no framebuffer, STATE_ERROR; on ∉ {0, 1} or ncols ∉ {5, 6} does
not decode. -/
def Obligations.DrawGlyphBlitsTheSetBits : Prop :=
  (∀ (x y : Half) (on : Bool) (cols : List Byte) (s : State), CoreInv s → s.ctl.fbValid = true →
    Draws (.drawGlyph x y on cols) s on fun px py =>
      ∃ (c k : Nat) (col : Byte), cols[c]? = some col ∧ k < 8 ∧ col.getLsbD k = true ∧
        px = x.toInt + c ∧ py = y.toInt + k) ∧
  (∀ (x y : Half) (on : Bool) (cols : List Byte) (s : State), s.ctl.fbValid = false →
    StateError (.drawGlyph x y on cols) s) ∧
  (∀ (x y : Half) (on : Bool) (cols : List Byte), cols.length = 5 ∨ cols.length = 6 →
    decode (0x15 :: (bytesOf x ++ bytesOf y ++ [if on then 0x01 else 0x00, BitVec.ofNat 8 cols.length] ++
      cols)) = .ok (.drawGlyph x y on cols)) ∧
  ∀ (x y : Half) (b n : Byte) (cols : List Byte) (i : Instr),
    decode (0x15 :: (bytesOf x ++ bytesOf y ++ [b, n] ++ cols)) = .ok i →
    (b = 0x00 ∨ b = 0x01) ∧ (n = 0x05 ∨ n = 0x06) ∧ cols.length = n.toNat

/-- R135, R136: DRAW_TEXT lights, for character n and every set bit (c, k) of its FONT glyph, the scale × scale
block whose top-left corner is (x + n*adv + c*scale, y + k*scale), adv = GLYPH_WIDTH*scale + TEXT_SPACING.
Where there is no framebuffer, STATE_ERROR; scale = 0 or a wrong length does not decode. -/
def Obligations.DrawTextLightsTheScaledGlyphs : Prop :=
  (∀ (x y : Half) (scale : Byte) (chars : List Byte) (s : State), CoreInv s → s.ctl.fbValid = true →
    Draws (.drawText x y scale chars) s true fun px py =>
      ∃ (n c k : Nat) (ch : Byte), chars[n]? = some ch ∧ c < s.cfg.glyphWidth.toNat ∧ k < 8 ∧
        (s.cfg.fontColumn ch c).getLsbD k = true ∧
        (let ox : Int := x.toInt + n * (s.cfg.glyphWidth.toNat * scale.toNat + s.cfg.textSpacing.toNat)
         (ox + c * scale.toNat ≤ px ∧ px < ox + (c + 1) * scale.toNat) ∧
         (y.toInt + k * scale.toNat ≤ py ∧ py < y.toInt + (k + 1) * scale.toNat))) ∧
  (∀ (x y : Half) (scale : Byte) (chars : List Byte) (s : State), s.ctl.fbValid = false →
    StateError (.drawText x y scale chars) s) ∧
  (∀ (x y : Half) (scale : Byte) (chars : List Byte), scale ≠ 0x00 → chars.length ≤ 255 →
    decode (0x16 :: (bytesOf x ++ bytesOf y ++ [scale, BitVec.ofNat 8 chars.length] ++ chars)) =
      .ok (.drawText x y scale chars)) ∧
  ∀ (x y : Half) (scale n : Byte) (chars : List Byte) (i : Instr),
    decode (0x16 :: (bytesOf x ++ bytesOf y ++ [scale, n] ++ chars)) = .ok i →
    scale ≠ 0x00 ∧ chars.length = n.toNat

/-- R135 "With scale = 1, each character is a DRAW_GLYPH of FONT[ch[n]] at (x + n*adv, y) with on = 1". -/
def Obligations.TextAtScaleOneIsGlyphAfterGlyph : Prop :=
  ∀ (c : Config) (x y : Int) (chars : List Byte),
    textPoints c x y 1 chars =
      chars.zipIdx.flatMap fun (ch, n) =>
        glyphPoints (x + n * (c.glyphWidth.toNat + c.textSpacing.toNat)) y
          ((List.range c.glyphWidth.toNat).map (c.fontColumn ch))

/-- R136: blocks of one character never overlap, and characters never overlap each other: no pixel of a
DRAW_TEXT is plotted twice. -/
def Obligations.TextBlocksNeverOverlap : Prop :=
  ∀ (c : Config) (x y : Int) (scale : Nat) (chars : List Byte), 1 ≤ scale →
    (textPoints c x y scale chars).Nodup

/-- R106: READ_BYTE of an index below WIDTH*PAGES returns OK and FB[index]; of any other, RANGE_ERROR; it
changes LAST_STATUS only. Where there is no framebuffer, STATE_ERROR. -/
def Obligations.ReadByteReturnsTheByte : Prop :=
  (∀ (index : Half) (s : State), s.ctl.fbValid = true → index.toNat < s.cfg.width * (s.cfg.height / 8) →
    exec (.readByte index) s = .next { s with
      lastStatus := 0x00, hostOut := s.hostOut ++ [⟨0x00, s.fb.read index.toNat⟩] }) ∧
  (∀ (index : Half) (s : State), s.ctl.fbValid = true → s.cfg.width * (s.cfg.height / 8) ≤ index.toNat →
    exec (.readByte index) s = .next { s with
      lastStatus := 0x12, hostOut := s.hostOut ++ [⟨0x12, 0x00⟩] }) ∧
  (∀ (index : Half) (s : State), s.ctl.fbValid = false → StateError (.readByte index) s) ∧
  ∀ index : Half, encode (.readByte index) = 0x20 :: bytesOf index

/-- 95_test_vectors.md X1 (R50, R104, R106): SET_PIXEL of a pixel in bounds, then READ_BYTE of its byte,
returns that pixel's bit as it was set. -/
def Obligations.SetPixelThenReadByteReturnsTheBit : Prop :=
  ∀ (x y : Half) (on : Bool) (s : State), CoreInv s → s.ctl.fbValid = true →
    0 ≤ x.toInt → x.toInt < s.cfg.width → 0 ≤ y.toInt → y.toInt < s.cfg.height →
    ∃ t u v, exec (.setPixel x y on) s = .next t ∧
      exec (.readByte (BitVec.ofNat 16 (x.toNat + y.toNat / 8 * s.cfg.width))) t = .next u ∧
      u.hostOut = t.hostOut ++ [⟨0x00, v⟩] ∧ v.getLsbD (y.toNat % 8) = on

/-- R260: the loops of the five point-plotting commands with a loop are bounded: FILL_RECT visits
max(w, 0)·max(h, 0) cells, DRAW_CIRCLE (2r + 1)² for r ≥ 0 and none for r < 0, DRAW_LINE at most
max(dx, dy) + 1 points, DRAW_GLYPH at most 8·ncols, DRAW_TEXT at most len·GLYPH_WIDTH·8·scale². CLEAR's
bound is not in it. The DRAW_LINE clause is the model's choice: linePoints gives its loop max(dx, dy) + 1
PLOTs, so the clause would hold of any loop body (log 13: DEDUCED, unsafe); LineVisitsEachPointOnce gives
that number for R130's loop without a bound. -/
def Obligations.DrawingLoopsAreBounded : Prop :=
  (∀ x y w h : Int, (rectPoints x y w h).length = w.toNat * h.toNat) ∧
  (∀ r : Int, (circleCells r).length = if 0 ≤ r then (2 * r.toNat + 1) ^ 2 else 0) ∧
  (∀ x0 y0 x1 y1 : Int,
    (linePoints x0 y0 x1 y1).length ≤ max (x1 - x0).natAbs (y1 - y0).natAbs + 1) ∧
  (∀ (x y : Int) (cols : List Byte), (glyphPoints x y cols).length ≤ 8 * cols.length) ∧
  ∀ (c : Config) (x y : Int) (scale : Nat) (chars : List Byte),
    (textPoints c x y scale chars).length ≤ chars.length * c.glyphWidth.toNat * 8 * scale ^ 2

/-! ## The assembler -/

/-- R79: the lines of 95_test_vectors.md (E1, E4 to E11) assemble to the packets it gives for them; a comment
is no command. The conventions of the text beyond R79's words are the model's (log 17). -/
def Obligations.AssemblerWritesThePacketsOfTheTable : Prop :=
  assemble "OPEN ; 01\nINIT\nFLUSH\nCLOSE\nCLEAR" = some [[0x01], [0x02], [0x03], [0x04], [0x10]] ∧
  assemble "SET_PIXEL -1, 0, 1" = some [[0x11, 0xFF, 0xFF, 0x00, 0x00, 0x01]] ∧
  assemble "FILL_RECT 0, 0, -3, 4, 1" =
    some [[0x12, 0x00, 0x00, 0x00, 0x00, 0xFD, 0xFF, 0x04, 0x00, 0x01]] ∧
  assemble "DRAW_LINE 0, 15, 127, 15, 1" =
    some [[0x13, 0x00, 0x00, 0x0F, 0x00, 0x7F, 0x00, 0x0F, 0x00, 0x01]] ∧
  assemble "DRAW_CIRCLE 64, 40, 3, 1" = some [[0x14, 0x40, 0x00, 0x28, 0x00, 0x03, 0x00, 0x01]] ∧
  assemble "DRAW_GLYPH 0, 0, 1, [0x7E,0x11,0x11,0x11,0x7E]" =
    some [[0x15, 0x00, 0x00, 0x00, 0x00, 0x01, 0x05, 0x7E, 0x11, 0x11, 0x11, 0x7E]] ∧
  assemble "DRAW_TEXT 0, 0, 1, \"AB\"" = some [[0x16, 0x00, 0x00, 0x00, 0x00, 0x01, 0x02, 0x41, 0x42]] ∧
  assemble "READ_BYTE 1023" = some [[0x20, 0xFF, 0x03]] ∧
  assemble "READ_REG 0x09" = some [[0x21, 0x09]]
end

