-- ==== Sys2Proof/Laws/Memory.lean ====
section
/-! SUPPORT. The laws of the framebuffer's bytes: read after write, and every operation keeps the canonical
form. -/

namespace Sys2Proof.Machine

@[simp] theorem read_nil (i : Nat) : Memory.read [] i = 0 := rfl

/-- A write leaves every other byte alone. -/
theorem read_write_ne (m : Memory) {i j : Nat} (v : Byte) (h : j ≠ i) :
    (Memory.write m i v).read j = Memory.read m j := by
  induction m with
  | nil =>
    unfold Memory.write
    split
    · rfl
    · simp [Memory.read, h.symm]
  | cons c m ih =>
    obtain ⟨a, w⟩ := c
    unfold Memory.write
    split
    · split
      · rfl
      · simp [Memory.read, h.symm]
    · split
      · subst_vars
        split <;> simp [Memory.read, h.symm]
      · simp [Memory.read, ih]

/-- An index below every listed one reads as an unlisted byte. -/
theorem read_of_forall_lt (m : Memory) (i : Nat) (h : ∀ cell ∈ m, i < cell.1) :
    Memory.read m i = unlistedByte := by
  induction m with
  | nil => rfl
  | cons c m ih =>
    have hc := h c (by simp)
    simp only [Memory.read, if_neg (Nat.ne_of_gt hc)]
    exact ih fun x hx => h x (by simp [hx])

/-- Read after write to the same index. -/
theorem read_write_same (m : Memory) (hm : Memory.wf m) (i : Nat) (v : Byte) :
    (Memory.write m i v).read i = v := by
  induction m with
  | nil =>
    unfold Memory.write
    split
    · simp_all [Memory.read]
    · simp [Memory.read]
  | cons c m ih =>
    obtain ⟨a, w⟩ := c
    obtain ⟨hp, hz⟩ := hm
    rw [List.pairwise_cons] at hp
    have hm' : Memory.wf m := ⟨hp.2, fun x hx => hz x (by simp [hx])⟩
    unfold Memory.write
    split
    · rename_i hlt
      split
      · rename_i hv
        rw [hv]
        refine read_of_forall_lt _ _ fun x hx => ?_
        rcases List.mem_cons.mp hx with rfl | hx
        · exact hlt
        · exact Nat.lt_trans hlt (hp.1 x hx)
      · simp [Memory.read]
    · split
      · rename_i hia
        subst hia
        split
        · rename_i hv
          rw [hv]
          exact read_of_forall_lt _ _ fun x hx => hp.1 x hx
        · simp [Memory.read]
      · rename_i hne
        simp [Memory.read, Ne.symm hne, ih hm']

/-- Where the cells of a written memory come from. -/
theorem mem_write (m : Memory) (i : Nat) (v : Byte) {cell : Host.Cell}
    (h : cell ∈ Memory.write m i v) : (cell = (i, v) ∧ v ≠ unlistedByte) ∨ cell ∈ m := by
  induction m with
  | nil =>
    unfold Memory.write at h
    split at h
    · simp at h
    · simp_all
  | cons c m ih =>
    obtain ⟨a, w⟩ := c
    unfold Memory.write at h
    split at h
    · split at h
      · exact .inr h
      · rcases List.mem_cons.mp h with h | h
        · exact .inl ⟨h, by assumption⟩
        · exact .inr h
    · split at h
      · split at h
        · exact .inr (by simp [h])
        · rcases List.mem_cons.mp h with h | h
          · exact .inl ⟨h, by assumption⟩
          · exact .inr (by simp [h])
      · rcases List.mem_cons.mp h with h | h
        · exact .inr (by simp [h])
        · rcases ih h with h | h
          · exact .inl h
          · exact .inr (by simp [h])

/-- A write keeps the canonical form. -/
theorem write_wf (m : Memory) (hm : Memory.wf m) (i : Nat) (v : Byte) :
    Memory.wf (Memory.write m i v) := by
  refine ⟨?_, fun cell hc => ?_⟩
  · induction m with
    | nil =>
      unfold Memory.write
      split <;> simp
    | cons c m ih =>
      obtain ⟨a, w⟩ := c
      obtain ⟨hp, hz⟩ := hm
      have hm' : Memory.wf m := ⟨(List.pairwise_cons.mp hp).2, fun x hx => hz x (by simp [hx])⟩
      unfold Memory.write
      split
      · rename_i hlt
        split
        · exact hp
        · refine List.pairwise_cons.mpr ⟨fun x hx => ?_, hp⟩
          rcases List.mem_cons.mp hx with rfl | hx
          · exact hlt
          · exact Nat.lt_trans hlt ((List.pairwise_cons.mp hp).1 x hx)
      · split
        · rename_i hia
          subst hia
          split
          · exact hm'.1
          · exact List.pairwise_cons.mpr ⟨(List.pairwise_cons.mp hp).1, hm'.1⟩
        · refine List.pairwise_cons.mpr ⟨fun x hx => ?_, ih hm'⟩
          rcases mem_write m i v hx with ⟨rfl, _⟩ | hx
          · simp only
            omega
          · exact (List.pairwise_cons.mp hp).1 x hx
  · rcases mem_write m i v hc with ⟨rfl, hv⟩ | h
    · exact hv
    · exact hm.2 cell h

/-- A listed byte of a canonical memory does not read as an unlisted one. -/
theorem read_mem (m : Memory) (hm : Memory.wf m) {cell : Host.Cell} (h : cell ∈ m) :
    m.read cell.1 = cell.2 := by
  induction m with
  | nil => simp at h
  | cons c m ih =>
    obtain ⟨hp, hz⟩ := hm
    rw [List.pairwise_cons] at hp
    rcases List.mem_cons.mp h with rfl | h
    · simp [Memory.read]
    · have := hp.1 cell h
      simp only [Memory.read, if_neg (Nat.ne_of_lt this)]
      exact ih ⟨hp.2, fun x hx => hz x (by simp [hx])⟩ h

/-- Equal memories are equal data: two canonical memories that read alike everywhere are the same list. -/
theorem memory_ext (m n : Memory) (hm : Memory.wf m) (hn : Memory.wf n)
    (h : ∀ i, m.read i = n.read i) : m = n := by
  induction m generalizing n with
  | nil =>
    cases n with
    | nil => rfl
    | cons c n =>
      have h1 := read_mem _ hn (cell := c) (by simp)
      rw [← h c.1] at h1
      exact absurd h1.symm (hn.2 c (by simp))
  | cons c m ih =>
    cases n with
    | nil =>
      have h1 := read_mem _ hm (cell := c) (by simp)
      rw [h c.1] at h1
      exact absurd h1.symm (hm.2 c (by simp))
    | cons d n =>
      have hpm := List.pairwise_cons.mp hm.1
      have hpn := List.pairwise_cons.mp hn.1
      have key : c.1 = d.1 := by
        rcases Nat.lt_trichotomy c.1 d.1 with hlt | heq | hgt
        · have h1 := read_mem _ hm (cell := c) (by simp)
          rw [h c.1, read_of_forall_lt] at h1
          · exact absurd h1.symm (hm.2 c (by simp))
          · intro x hx
            rcases List.mem_cons.mp hx with rfl | hx
            · exact hlt
            · exact Nat.lt_trans hlt (hpn.1 x hx)
        · exact heq
        · have h1 := read_mem _ hn (cell := d) (by simp)
          rw [← h d.1, read_of_forall_lt] at h1
          · exact absurd h1.symm (hn.2 d (by simp))
          · intro x hx
            rcases List.mem_cons.mp hx with rfl | hx
            · exact hgt
            · exact Nat.lt_trans hgt (hpm.1 x hx)
      have hcd : c = d := by
        have h1 := read_mem _ hm (cell := c) (by simp)
        have h2 := read_mem _ hn (cell := d) (by simp)
        rw [h c.1, key, h2] at h1
        exact Prod.ext key h1.symm
      subst hcd
      congr 1
      refine ih n ⟨hpm.2, fun x hx => hm.2 x (by simp [hx])⟩
        ⟨hpn.2, fun x hx => hn.2 x (by simp [hx])⟩ fun i => ?_
      by_cases hi : c.1 < i
      · have := h i
        simpa [Memory.read, Nat.ne_of_lt hi] using this
      · rw [read_of_forall_lt m i fun x hx => Nat.lt_of_le_of_lt (Nat.le_of_not_lt hi) (hpm.1 x hx),
          read_of_forall_lt n i fun x hx => Nat.lt_of_le_of_lt (Nat.le_of_not_lt hi) (hpn.1 x hx)]

/-- A memory written byte by byte is canonical. -/
theorem ofFn_wf (f : Nat → Byte) (size : Nat) : Memory.wf (Memory.ofFn f size) := by
  induction size with
  | zero => exact ⟨List.Pairwise.nil, by simp [Memory.ofFn]⟩
  | succ n ih => exact write_wf _ ih _ _

/-- A memory written byte by byte lists no index from its size up. -/
theorem ofFn_lt (f : Nat → Byte) (size : Nat) : ∀ cell ∈ Memory.ofFn f size, cell.1 < size := by
  induction size with
  | zero => simp [Memory.ofFn]
  | succ n ih =>
    intro cell hc
    rcases mem_write _ _ _ hc with ⟨rfl, _⟩ | h
    · exact Nat.lt_succ_self n
    · exact Nat.lt_succ_of_lt (ih cell h)

/-- Byte i of a memory written byte by byte. -/
theorem read_ofFn (f : Nat → Byte) {size i : Nat} (h : i < size) :
    (Memory.ofFn f size).read i = f i := by
  induction size with
  | zero => omega
  | succ n ih =>
    simp only [Memory.ofFn]
    by_cases hi : i = n
    · subst hi
      exact read_write_same _ (ofFn_wf f i) _ _
    · rw [read_write_ne _ _ hi]
      exact ih (by omega)

end Sys2Proof.Machine
end

