-- ==== Sys2Proof/Laws/Canvas.lean ====
section
/-! SUPPORT. The laws of DIRTY, of the pixel layout and of the framebuffer's writes: the bits each flag
operation sets, where a pixel lies, and that every write keeps FB canonical and in range. -/

namespace Sys2Proof.Machine

/-! ## Flags -/

theorem oneHot_getLsbD (p q : Nat) : (1#8 <<< p).getLsbD q = (decide (q = p) && decide (q < 8)) := by
  rw [BitVec.getLsbD_shiftLeft, BitVec.getLsbD_one]
  by_cases h : q = p
  · simp [h]
  · simp [h]
    omega

/-- DIRTY[p] <- 1 sets flag p and no other. -/
theorem setDirty_at (d : Byte) (p q : Nat) :
    dirtyAt (setDirty d p) q = (dirtyAt d q || (decide (q = p) && decide (q < 8))) := by
  simp only [dirtyAt, setDirty, BitVec.getLsbD_or, oneHot_getLsbD]

/-- DIRTY[p] <- 0 clears flag p and no other. -/
theorem clearDirty_at (d : Byte) (p q : Nat) :
    dirtyAt (clearDirty d p) q = (dirtyAt d q && !decide (q = p)) := by
  simp only [dirtyAt, clearDirty, BitVec.getLsbD_and, BitVec.getLsbD_not, oneHot_getLsbD]
  by_cases h8 : q < 8
  · simp [h8]
  · simp [h8, BitVec.getLsbD_of_ge d q (Nat.le_of_not_lt h8)]

theorem pages_le_eight {c : Config} (h : c.Legal) : c.pages ≤ 8 := by
  unfold Config.pages
  have := h.2.2.2.1
  omega

/-- The flag bits of DIRTY are those below PAGES. -/
theorem pagesMask_at {c : Config} (h : c.Legal) (q : Nat) :
    (pagesMask c).getLsbD q = decide (q < c.pages) := by
  have h8 := pages_le_eight h
  unfold pagesMask
  rw [BitVec.getLsbD_ofNat, Nat.testBit_two_pow_sub_one]
  by_cases hq : q < c.pages
  · simp [hq, Nat.lt_of_lt_of_le hq h8]
  · simp [hq]

/-- Two flag bytes with the same flags are the same byte. -/
theorem dirty_ext {d e : Byte} (h : ∀ p, dirtyAt d p = dirtyAt e p) : d = e :=
  BitVec.eq_of_getLsbD_eq fun i _ => h i

/-- DIRTY has no flag set from PAGES up exactly if its reserved bits are 0. -/
theorem dirtyInRange_iff {c : Config} (h : c.Legal) (d : Byte) :
    d &&& pagesMask c = d ↔ ∀ p, c.pages ≤ p → dirtyAt d p = false := by
  constructor
  · intro hd p hp
    rw [← hd]
    simp [dirtyAt, pagesMask_at h, Nat.not_lt.mpr hp]
  · intro hd
    refine dirty_ext fun p => ?_
    simp only [dirtyAt, BitVec.getLsbD_and, pagesMask_at h]
    by_cases hp : p < c.pages
    · simp [hp]
    · have := hd p (Nat.le_of_not_lt hp)
      simp only [dirtyAt] at this
      simp [this]

/-! ## The pixel layout -/

theorem eight_pages {c : Config} (h : c.Legal) : c.height = 8 * c.pages := by
  unfold Config.pages
  have := h.2.2.2.2
  omega

/-- A pixel in bounds lies in FB. -/
theorem pixelIndex_lt {c : Config} (h : c.Legal) {x y : Nat} (hx : x < c.width) (hy : y < c.height) :
    pixelIndex c x y < c.fbSize := by
  have h8 := eight_pages h
  have hp : y / 8 + 1 ≤ c.pages := by omega
  have := Nat.mul_le_mul_right c.width hp
  unfold pixelIndex Config.fbSize
  rw [Nat.mul_comm c.width]
  rw [Nat.add_mul, Nat.one_mul] at this
  omega

/-- The page of a pixel's byte. -/
theorem pixelIndex_div {c : Config} {x y : Nat} (hx : x < c.width) :
    pixelIndex c x y / c.width = y / 8 := by
  unfold pixelIndex
  rw [Nat.add_mul_div_right _ _ (by omega), Nat.div_eq_of_lt hx, Nat.zero_add]

/-- The column of a pixel's byte. -/
theorem pixelIndex_mod {c : Config} {x y : Nat} (hx : x < c.width) :
    pixelIndex c x y % c.width = x := by
  unfold pixelIndex
  rw [Nat.add_mul_mod_self_right, Nat.mod_eq_of_lt hx]

theorem pixelMask_getLsbD (y k : Nat) : (pixelMask y).getLsbD k = decide (k = y % 8) := by
  unfold pixelMask pixelBit
  rw [oneHot_getLsbD]
  by_cases h : k = y % 8
  · have : k < 8 := by omega
    simp [h]
    omega
  · simp [h]

/-! ## Writes keep FB canonical and in range -/

theorem memWrite_wf (cfg : Config) (i : Nat) (v : Byte) (c : Canvas) (h : c.fb.wf) :
    (memWrite cfg i v c).fb.wf := write_wf _ h _ _

theorem plot_wf (cfg : Config) (on : Bool) (c : Canvas) (p : Int × Int) (h : c.fb.wf) :
    (plot cfg on c p).fb.wf := by
  unfold plot
  split
  · exact write_wf _ h _ _
  · exact h

/-- A property of the canvas that every PLOT of a list keeps holds after the list. -/
theorem plotAll_keeps (P : Canvas → Prop) (cfg : Config) (on : Bool) (pts : List (Int × Int))
    (c : Canvas) (h0 : P c) (hstep : ∀ d, P d → ∀ p ∈ pts, P (plot cfg on d p)) :
    P (plotAll cfg on pts c) := by
  induction pts generalizing c with
  | nil => exact h0
  | cons p pts ih =>
    exact ih _ (hstep c h0 p (by simp)) fun d hd q hq => hstep d hd q (by simp [hq])

theorem plotAll_wf (cfg : Config) (on : Bool) (pts : List (Int × Int)) (c : Canvas) (h : c.fb.wf) :
    (plotAll cfg on pts c).fb.wf :=
  plotAll_keeps (fun d => d.fb.wf) cfg on pts c h fun d hd p _ => plot_wf cfg on d p hd

theorem clearBytes_wf (cfg : Config) (n : Nat) (c : Canvas) (h : c.fb.wf) :
    (clearBytes cfg n c).fb.wf := by
  induction n with
  | zero => exact h
  | succ n ih => exact write_wf _ ih _ _

theorem write_inRange {m : Memory} {size i : Nat} (v : Byte) (h : ∀ cell ∈ m, cell.1 < size)
    (hi : i < size) : ∀ cell ∈ Memory.write m i v, cell.1 < size := by
  intro cell hc
  rcases mem_write m i v hc with ⟨rfl, _⟩ | hc
  · exact hi
  · exact h cell hc

theorem plot_inRange {cfg : Config} (hl : cfg.Legal) (on : Bool) (c : Canvas) (p : Int × Int)
    (h : ∀ cell ∈ c.fb, cell.1 < cfg.fbSize) : ∀ cell ∈ (plot cfg on c p).fb, cell.1 < cfg.fbSize := by
  unfold plot
  split
  · rename_i hb
    obtain ⟨⟨hx0, hx⟩, hy0, hy⟩ := hb
    exact write_inRange _ h (pixelIndex_lt hl (by omega) (by omega))
  · exact h

theorem clearBytes_inRange (cfg : Config) (n : Nat) (c : Canvas) (hn : n ≤ cfg.fbSize)
    (h : ∀ cell ∈ c.fb, cell.1 < cfg.fbSize) :
    ∀ cell ∈ (clearBytes cfg n c).fb, cell.1 < cfg.fbSize := by
  induction n with
  | zero => exact h
  | succ n ih => exact write_inRange _ (ih (by omega)) hn

/-! ## What the writes leave -/

/-- MemWrite: the byte written, and every other byte as before. -/
theorem memWrite_read (cfg : Config) {c : Canvas} (h : c.fb.wf) (i : Nat) (v : Byte) (j : Nat) :
    (memWrite cfg i v c).fb.read j = if j = i then v else c.fb.read j := by
  show (c.fb.write i v).read j = _
  split
  · rename_i e
    rw [e]
    exact read_write_same _ h _ _
  · rename_i e
    exact read_write_ne _ _ e

/-- CLEAR's loop: the bytes it has reached are 0, and every other byte is as before. -/
theorem clearBytes_read (cfg : Config) {c : Canvas} (h : c.fb.wf) (n j : Nat) :
    (clearBytes cfg n c).fb.read j = if j < n then 0x00 else c.fb.read j := by
  induction n with
  | zero => simp [clearBytes]
  | succ n ih =>
    show (memWrite cfg n 0 (clearBytes cfg n c)).fb.read j = _
    rw [memWrite_read cfg (clearBytes_wf cfg n c h), ih]
    by_cases h1 : j = n
    · simp [h1]
    · have : j < n + 1 ↔ j < n := by omega
      simp [h1, this]

/-- The byte PLOT writes differs from the old one in its lane only. -/
theorem plotted_getLsbD (old : Byte) (y : Nat) (on : Bool) (k : Nat) :
    (if on then old ||| pixelMask y else old &&& ~~~(pixelMask y)).getLsbD k =
      if k = y % 8 then on else old.getLsbD k := by
  cases on
  · simp only [Bool.false_eq_true, if_false, BitVec.getLsbD_and, BitVec.getLsbD_not, pixelMask_getLsbD]
    by_cases hk : k = y % 8
    · simp [hk]
    · simp only [hk, decide_false, Bool.not_false, Bool.and_true, if_false, Bool.and_eq_left_iff_imp,
        decide_eq_true_eq]
      exact BitVec.lt_of_getLsbD
  · simp only [if_true, BitVec.getLsbD_or, pixelMask_getLsbD]
    by_cases hk : k = y % 8 <;> simp [hk]

end Sys2Proof.Machine
end

