-- ==== Sys2Proof/Laws/Decode.lean ====
section
/-! SUPPORT. The laws of the decoder's parts: the opcode map, 16-bit fields, the field on. -/

namespace Sys2Proof

/-- Each opcode's byte names that opcode (R72). -/
@[simp] theorem ofByte_code (o : Opcode) : Opcode.ofByte? o.code = some o := by
  cases o <;> rfl

/-- A byte that names an opcode is that opcode's byte (R72). -/
theorem code_of_ofByte {b : Byte} {o : Opcode} (h : Opcode.ofByte? b = some o) : o.code = b := by
  have := List.find?_some h
  simpa using this

/-- No two rows of the opcode map have the same byte (R72). -/
theorem opcode_rows_distinct : Opcode.all.Pairwise fun a b => a.code ≠ b.code := by decide

/-- Every opcode has its row. -/
theorem mem_all (o : Opcode) : o ∈ Opcode.all := by cases o <;> decide

/-- A 16-bit field put together from its two bytes (R71). -/
@[simp] theorem half_of_bytes (h : Half) :
    (h.extractLsb' 8 8 ++ h.extractLsb' 0 8 : BitVec (8 + 8)) = h := by
  apply BitVec.eq_of_getLsbD_eq
  intro i hi
  rw [BitVec.getLsbD_append]
  simp only [BitVec.getLsbD_extractLsb']
  split <;> rename_i h8
  · simp [h8]
  · have h1 : i - 8 < 8 := by omega
    have h2 : 8 + (i - 8) = i := by omega
    simp [h1, h2]

@[simp] theorem decodeOn_onByte (on : Bool) : decodeOn (onByte on) = .ok on := by
  cases on <;> rfl

/-- The field on decodes exactly from the two bytes of R77. -/
theorem onByte_of_decodeOn {b : Byte} {on : Bool} (h : decodeOn b = .ok on) : onByte on = b := by
  unfold decodeOn at h
  split at h
  · cases h
    simp_all [onByte]
  · split at h
    · cases h
      simp_all [onByte]
    · cases h

end Sys2Proof
end

