-- ==== Sys2Proof/Laws/PerInstr.lean ====
section
/-! SUPPORT. Facts about the commands as syntax, one lemma per constructor. -/

namespace Sys2Proof.Laws.EncodedLength

/-- The packet of a well-formed command begins with the byte of an opcode and has the length R73 gives that
opcode and the packet's count byte. -/
def Statement (i : Instr) : Prop :=
  i.wf = true → ∃ o : Opcode, (encode i).head? = some o.code ∧
    (encode i).length = o.length (byteAt (encode i) 6)

theorem cmdOpen : Statement .cmdOpen := fun _ => ⟨.cmdOpen, rfl, rfl⟩
theorem cmdInit : Statement .cmdInit := fun _ => ⟨.cmdInit, rfl, rfl⟩
theorem cmdFlush : Statement .cmdFlush := fun _ => ⟨.cmdFlush, rfl, rfl⟩
theorem cmdClose : Statement .cmdClose := fun _ => ⟨.cmdClose, rfl, rfl⟩
theorem clear : Statement .clear := fun _ => ⟨.clear, rfl, rfl⟩
theorem setPixel (x y : Half) (on : Bool) : Statement (.setPixel x y on) := fun _ => ⟨.setPixel, rfl, rfl⟩
theorem fillRect (x y w h : Half) (on : Bool) : Statement (.fillRect x y w h on) :=
  fun _ => ⟨.fillRect, rfl, rfl⟩
theorem drawLine (x0 y0 x1 y1 : Half) (on : Bool) : Statement (.drawLine x0 y0 x1 y1 on) :=
  fun _ => ⟨.drawLine, rfl, rfl⟩
theorem drawCircle (cx cy r : Half) (on : Bool) : Statement (.drawCircle cx cy r on) :=
  fun _ => ⟨.drawCircle, rfl, rfl⟩

theorem drawGlyph (x y : Half) (on : Bool) (cols : List Byte) : Statement (.drawGlyph x y on cols) := by
  intro h
  simp only [Instr.wf, Bool.or_eq_true, beq_iff_eq] at h
  refine ⟨.drawGlyph, rfl, ?_⟩
  rcases h with h | h <;> simp [encode, halfBytes, byteAt, Opcode.length, h]

theorem drawText (x y : Half) (scale : Byte) (chars : List Byte) :
    Statement (.drawText x y scale chars) := by
  intro h
  simp only [Instr.wf, Bool.and_eq_true, decide_eq_true_eq] at h
  refine ⟨.drawText, rfl, ?_⟩
  simp [encode, halfBytes, byteAt, Opcode.length]
  omega

theorem readByte (index : Half) : Statement (.readByte index) := fun _ => ⟨.readByte, rfl, rfl⟩
theorem readReg (reg : Byte) : Statement (.readReg reg) := fun _ => ⟨.readReg, rfl, rfl⟩

end Sys2Proof.Laws.EncodedLength
end

