-- ==== Sys2Proof/Laws/State.lean ====
section
/-! SUPPORT. What each update of the state does to each field: one lemma per field per update. -/

namespace Sys2Proof.Machine

/-! ### withCanvas -/

@[simp] theorem withCanvas_cfg (s : State) (c : Canvas) : (s.withCanvas c).cfg = s.cfg := rfl
@[simp] theorem withCanvas_ctl (s : State) (c : Canvas) : (s.withCanvas c).ctl = s.ctl := rfl
@[simp] theorem withCanvas_transportHeld (s : State) (c : Canvas) : (s.withCanvas c).transportHeld = s.transportHeld := rfl
@[simp] theorem withCanvas_fb (s : State) (c : Canvas) : (s.withCanvas c).fb = c.fb := rfl
@[simp] theorem withCanvas_dirty (s : State) (c : Canvas) : (s.withCanvas c).dirty = c.dirty := rfl
@[simp] theorem withCanvas_lastStatus (s : State) (c : Canvas) : (s.withCanvas c).lastStatus = s.lastStatus := rfl
@[simp] theorem withCanvas_fatalCause (s : State) (c : Canvas) : (s.withCanvas c).fatalCause = s.fatalCause := rfl
@[simp] theorem withCanvas_hostIn (s : State) (c : Canvas) : (s.withCanvas c).hostIn = s.hostIn := rfl
@[simp] theorem withCanvas_hostOut (s : State) (c : Canvas) : (s.withCanvas c).hostOut = s.hostOut := rfl
@[simp] theorem withCanvas_answers (s : State) (c : Canvas) : (s.withCanvas c).answers = s.answers := rfl
@[simp] theorem withCanvas_transport (s : State) (c : Canvas) : (s.withCanvas c).transport = s.transport := rfl
@[simp] theorem withCanvas_draws (s : State) (c : Canvas) : (s.withCanvas c).draws = s.draws := rfl

/-! ### respond -/

@[simp] theorem respond_cfg (code : Status) (data : Byte) (s : State) : (respond code data s).cfg = s.cfg := rfl
@[simp] theorem respond_ctl (code : Status) (data : Byte) (s : State) : (respond code data s).ctl = s.ctl := rfl
@[simp] theorem respond_transportHeld (code : Status) (data : Byte) (s : State) : (respond code data s).transportHeld = s.transportHeld := rfl
@[simp] theorem respond_fb (code : Status) (data : Byte) (s : State) : (respond code data s).fb = s.fb := rfl
@[simp] theorem respond_dirty (code : Status) (data : Byte) (s : State) : (respond code data s).dirty = s.dirty := rfl
@[simp] theorem respond_lastStatus (code : Status) (data : Byte) (s : State) : (respond code data s).lastStatus = s.lastStatus := rfl
@[simp] theorem respond_fatalCause (code : Status) (data : Byte) (s : State) : (respond code data s).fatalCause = s.fatalCause := rfl
@[simp] theorem respond_hostIn (code : Status) (data : Byte) (s : State) : (respond code data s).hostIn = s.hostIn := rfl
@[simp] theorem respond_hostOut (code : Status) (data : Byte) (s : State) : (respond code data s).hostOut = s.hostOut ++ [⟨code.code, data⟩] := rfl
@[simp] theorem respond_answers (code : Status) (data : Byte) (s : State) : (respond code data s).answers = s.answers := rfl
@[simp] theorem respond_transport (code : Status) (data : Byte) (s : State) : (respond code data s).transport = s.transport := rfl
@[simp] theorem respond_draws (code : Status) (data : Byte) (s : State) : (respond code data s).draws = s.draws := rfl

/-! ### finish -/

@[simp] theorem finish_cfg (code : Status) (data : Byte) (s : State) : (finish code data s).cfg = s.cfg := rfl
@[simp] theorem finish_ctl (code : Status) (data : Byte) (s : State) : (finish code data s).ctl = s.ctl := rfl
@[simp] theorem finish_transportHeld (code : Status) (data : Byte) (s : State) : (finish code data s).transportHeld = s.transportHeld := rfl
@[simp] theorem finish_fb (code : Status) (data : Byte) (s : State) : (finish code data s).fb = s.fb := rfl
@[simp] theorem finish_dirty (code : Status) (data : Byte) (s : State) : (finish code data s).dirty = s.dirty := rfl
@[simp] theorem finish_lastStatus (code : Status) (data : Byte) (s : State) : (finish code data s).lastStatus = code.code := rfl
@[simp] theorem finish_fatalCause (code : Status) (data : Byte) (s : State) : (finish code data s).fatalCause = s.fatalCause := rfl
@[simp] theorem finish_hostIn (code : Status) (data : Byte) (s : State) : (finish code data s).hostIn = s.hostIn := rfl
@[simp] theorem finish_hostOut (code : Status) (data : Byte) (s : State) : (finish code data s).hostOut = s.hostOut ++ [⟨code.code, data⟩] := rfl
@[simp] theorem finish_answers (code : Status) (data : Byte) (s : State) : (finish code data s).answers = s.answers := rfl
@[simp] theorem finish_transport (code : Status) (data : Byte) (s : State) : (finish code data s).transport = s.transport := rfl
@[simp] theorem finish_draws (code : Status) (data : Byte) (s : State) : (finish code data s).draws = s.draws := rfl

/-! ### raise -/

@[simp] theorem raise_cfg (code : Status) (s : State) : (raise code s).cfg = s.cfg := rfl
@[simp] theorem raise_ctl (code : Status) (s : State) : (raise code s).ctl = s.ctl := rfl
@[simp] theorem raise_transportHeld (code : Status) (s : State) : (raise code s).transportHeld = s.transportHeld := rfl
@[simp] theorem raise_fb (code : Status) (s : State) : (raise code s).fb = s.fb := rfl
@[simp] theorem raise_dirty (code : Status) (s : State) : (raise code s).dirty = s.dirty := rfl
@[simp] theorem raise_lastStatus (code : Status) (s : State) : (raise code s).lastStatus = code.code := rfl
@[simp] theorem raise_fatalCause (code : Status) (s : State) : (raise code s).fatalCause = s.fatalCause := rfl
@[simp] theorem raise_hostIn (code : Status) (s : State) : (raise code s).hostIn = s.hostIn := rfl
@[simp] theorem raise_hostOut (code : Status) (s : State) : (raise code s).hostOut = s.hostOut ++ [⟨code.code, 0x00⟩] := rfl
@[simp] theorem raise_answers (code : Status) (s : State) : (raise code s).answers = s.answers := rfl
@[simp] theorem raise_transport (code : Status) (s : State) : (raise code s).transport = s.transport := rfl
@[simp] theorem raise_draws (code : Status) (s : State) : (raise code s).draws = s.draws := rfl

/-! ### enterFailed -/

@[simp] theorem enterFailed_cfg (code : Status) (s : State) : (enterFailed code s).cfg = s.cfg := rfl
@[simp] theorem enterFailed_ctl (code : Status) (s : State) : (enterFailed code s).ctl = .failed := rfl
@[simp] theorem enterFailed_transportHeld (code : Status) (s : State) : (enterFailed code s).transportHeld = s.transportHeld := rfl
@[simp] theorem enterFailed_fb (code : Status) (s : State) : (enterFailed code s).fb = s.fb := rfl
@[simp] theorem enterFailed_dirty (code : Status) (s : State) : (enterFailed code s).dirty = s.dirty := rfl
@[simp] theorem enterFailed_lastStatus (code : Status) (s : State) : (enterFailed code s).lastStatus = code.code := rfl
@[simp] theorem enterFailed_fatalCause (code : Status) (s : State) : (enterFailed code s).fatalCause = code.code := rfl
@[simp] theorem enterFailed_hostIn (code : Status) (s : State) : (enterFailed code s).hostIn = s.hostIn := rfl
@[simp] theorem enterFailed_hostOut (code : Status) (s : State) : (enterFailed code s).hostOut = s.hostOut ++ [⟨code.code, 0x00⟩] := rfl
@[simp] theorem enterFailed_answers (code : Status) (s : State) : (enterFailed code s).answers = s.answers := rfl
@[simp] theorem enterFailed_transport (code : Status) (s : State) : (enterFailed code s).transport = s.transport := rfl
@[simp] theorem enterFailed_draws (code : Status) (s : State) : (enterFailed code s).draws = s.draws := rfl

/-! ### afterRequest -/

@[simp] theorem afterRequest_cfg (e : TransportEvent) (s : State) : (afterRequest e s).cfg = s.cfg := rfl
@[simp] theorem afterRequest_ctl (e : TransportEvent) (s : State) : (afterRequest e s).ctl = s.ctl := rfl
@[simp] theorem afterRequest_transportHeld (e : TransportEvent) (s : State) : (afterRequest e s).transportHeld = s.transportHeld := rfl
@[simp] theorem afterRequest_fb (e : TransportEvent) (s : State) : (afterRequest e s).fb = s.fb := rfl
@[simp] theorem afterRequest_dirty (e : TransportEvent) (s : State) : (afterRequest e s).dirty = s.dirty := rfl
@[simp] theorem afterRequest_lastStatus (e : TransportEvent) (s : State) : (afterRequest e s).lastStatus = s.lastStatus := rfl
@[simp] theorem afterRequest_fatalCause (e : TransportEvent) (s : State) : (afterRequest e s).fatalCause = s.fatalCause := rfl
@[simp] theorem afterRequest_hostIn (e : TransportEvent) (s : State) : (afterRequest e s).hostIn = s.hostIn := rfl
@[simp] theorem afterRequest_hostOut (e : TransportEvent) (s : State) : (afterRequest e s).hostOut = s.hostOut := rfl
@[simp] theorem afterRequest_answers (e : TransportEvent) (s : State) : (afterRequest e s).answers = s.answers.tail := rfl
@[simp] theorem afterRequest_transport (e : TransportEvent) (s : State) : (afterRequest e s).transport = s.transport ++ [e] := rfl
@[simp] theorem afterRequest_draws (e : TransportEvent) (s : State) : (afterRequest e s).draws = if s.answers.isEmpty then s.draws + 1 else s.draws := rfl

/-! ### releaseRequest -/

@[simp] theorem releaseRequest_cfg (s : State) : (releaseRequest s).cfg = s.cfg := rfl
@[simp] theorem releaseRequest_ctl (s : State) : (releaseRequest s).ctl = s.ctl := rfl
@[simp] theorem releaseRequest_transportHeld (s : State) : (releaseRequest s).transportHeld = s.transportHeld := rfl
@[simp] theorem releaseRequest_fb (s : State) : (releaseRequest s).fb = s.fb := rfl
@[simp] theorem releaseRequest_dirty (s : State) : (releaseRequest s).dirty = s.dirty := rfl
@[simp] theorem releaseRequest_lastStatus (s : State) : (releaseRequest s).lastStatus = s.lastStatus := rfl
@[simp] theorem releaseRequest_fatalCause (s : State) : (releaseRequest s).fatalCause = s.fatalCause := rfl
@[simp] theorem releaseRequest_hostIn (s : State) : (releaseRequest s).hostIn = s.hostIn := rfl
@[simp] theorem releaseRequest_hostOut (s : State) : (releaseRequest s).hostOut = s.hostOut := rfl
@[simp] theorem releaseRequest_answers (s : State) : (releaseRequest s).answers = s.answers := rfl
@[simp] theorem releaseRequest_transport (s : State) : (releaseRequest s).transport = s.transport ++ [.release] := rfl
@[simp] theorem releaseRequest_draws (s : State) : (releaseRequest s).draws = s.draws := rfl

/-! ### openGranted -/

@[simp] theorem openGranted_cfg (s : State) : (openGranted s).cfg = s.cfg := rfl
@[simp] theorem openGranted_ctl (s : State) : (openGranted s).ctl = .opening := rfl
@[simp] theorem openGranted_transportHeld (s : State) : (openGranted s).transportHeld = true := rfl
@[simp] theorem openGranted_fb (s : State) : (openGranted s).fb = [] := rfl
@[simp] theorem openGranted_dirty (s : State) : (openGranted s).dirty = allDirty s.cfg := rfl
@[simp] theorem openGranted_lastStatus (s : State) : (openGranted s).lastStatus = Status.ok.code := rfl
@[simp] theorem openGranted_fatalCause (s : State) : (openGranted s).fatalCause = 0x00 := rfl
@[simp] theorem openGranted_hostIn (s : State) : (openGranted s).hostIn = s.hostIn := rfl
@[simp] theorem openGranted_hostOut (s : State) : (openGranted s).hostOut = s.hostOut ++ [⟨Status.ok.code, 0x00⟩] := rfl
@[simp] theorem openGranted_answers (s : State) : (openGranted s).answers = s.answers := rfl
@[simp] theorem openGranted_transport (s : State) : (openGranted s).transport = s.transport := rfl
@[simp] theorem openGranted_draws (s : State) : (openGranted s).draws = s.draws := rfl

/-! ### resetEvent -/

@[simp] theorem resetEvent_cfg (s : State) : (resetEvent s).cfg = s.cfg := rfl
@[simp] theorem resetEvent_ctl (s : State) : (resetEvent s).ctl = .closed := rfl
@[simp] theorem resetEvent_transportHeld (s : State) : (resetEvent s).transportHeld = false := rfl
@[simp] theorem resetEvent_fb (s : State) : (resetEvent s).fb = Memory.unspecified s.cfg s.draws := rfl
@[simp] theorem resetEvent_dirty (s : State) : (resetEvent s).dirty = 0x00 := rfl
@[simp] theorem resetEvent_lastStatus (s : State) : (resetEvent s).lastStatus = 0x00 := rfl
@[simp] theorem resetEvent_fatalCause (s : State) : (resetEvent s).fatalCause = 0x00 := rfl
@[simp] theorem resetEvent_hostIn (s : State) : (resetEvent s).hostIn = s.hostIn := rfl
@[simp] theorem resetEvent_hostOut (s : State) : (resetEvent s).hostOut = s.hostOut := rfl
@[simp] theorem resetEvent_answers (s : State) : (resetEvent s).answers = s.answers := rfl
@[simp] theorem resetEvent_transport (s : State) : (resetEvent s).transport = s.transport := rfl
@[simp] theorem resetEvent_draws (s : State) : (resetEvent s).draws = s.draws + 1 := rfl

/-! ### canvas and reset -/

@[simp] theorem canvas_fb (s : State) : s.canvas.fb = s.fb := rfl
@[simp] theorem canvas_dirty (s : State) : s.canvas.dirty = s.dirty := rfl
@[simp] theorem withCanvas_canvas (s : State) (c : Canvas) : (s.withCanvas c).canvas = c := rfl
@[simp] theorem resetOf_cfg (c : Config) : (State.resetOf c).cfg = c := rfl
@[simp] theorem reset_width : State.reset.cfg.width = 128 := rfl
@[simp] theorem reset_height : State.reset.cfg.height = 64 := rfl

/-! ### the progress of a command that emits frames -/

@[simp] theorem andThen_running (s : State) (k : State → Progress) : (Progress.running s).andThen k = k s := rfl
@[simp] theorem andThen_ended (s : State) (k : State → Progress) : (Progress.ended s).andThen k = .ended s := rfl
@[simp] theorem complete_running (s : State) (k : State → State) : (Progress.running s).complete k = k s := rfl
@[simp] theorem complete_ended (s : State) (k : State → State) : (Progress.ended s).complete k = s := rfl

end Sys2Proof.Machine
end

