-- ==== Sys2Proof/Laws/Step.lean ====
section
/-! SUPPORT. What one step can do, said once: the four ways to a next state, and the two ways through the
state check. -/

namespace Sys2Proof.Machine

/-- A command behind the state check answers a next state: its body's where it is legal, STATE_ERROR
elsewhere (R222). -/
theorem guarded_eq (cls : CommandClass) (body : State → State) (s : State) :
    guarded cls body s = .next (if legalIn cls s.ctl then body s else raise .stateError s) := rfl

theorem guarded_legal {cls : CommandClass} {s : State} (h : legalIn cls s.ctl = true)
    (body : State → State) : guarded cls body s = .next (body s) := by
  simp [guarded, h]

theorem guarded_illegal {cls : CommandClass} {s : State} (h : legalIn cls s.ctl = false)
    (body : State → State) : guarded cls body s = .next (raise .stateError s) := by
  simp [guarded, h]

/-- A step that answers a next state, of a legal build, has waited, taken a reset, refused a packet or run
a command. -/
theorem step_cases {s t : State} (h : step s = .next t) :
    s.cfg.Legal ∧
    ((s.hostIn = [] ∧ t = s) ∨
     (∃ rest, s.hostIn = .reset :: rest ∧ t = resetEvent { s with hostIn := rest }) ∨
     (∃ p rest e, s.hostIn = .packet p :: rest ∧ decode p = .error e ∧
        t = illegalPacket p { s with hostIn := rest }) ∨
     (∃ p rest i, s.hostIn = .packet p :: rest ∧ decode p = .ok i ∧
        exec i { s with hostIn := rest } = .next t)) := by
  unfold step at h
  split at h
  · rename_i hl
    refine ⟨hl, ?_⟩
    cases hin : s.hostIn with
    | nil =>
      simp only [fetch, hin] at h
      cases h
      exact .inl ⟨rfl, rfl⟩
    | cons inp rest =>
      cases inp with
      | reset =>
        simp only [fetch, hin] at h
        cases h
        exact .inr (.inl ⟨rest, rfl, rfl⟩)
      | packet p =>
        simp only [fetch, hin] at h
        cases hd : decode p with
        | error e =>
          simp only [hd] at h
          cases h
          exact .inr (.inr (.inl ⟨p, rest, e, rfl, hd, rfl⟩))
        | ok i =>
          simp only [hd] at h
          exact .inr (.inr (.inr ⟨p, rest, i, rfl, hd, h⟩))
  · cases h

/-- The step of a packet, by what it decodes to (R221). -/
theorem step_packet {s : State} {p : List Byte} {rest : List HostInput} (hl : s.cfg.Legal)
    (hin : s.hostIn = .packet p :: rest) :
    step s = match decode p with
      | .ok i => exec i { s with hostIn := rest }
      | .error _ => .next (illegalPacket p { s with hostIn := rest }) := by
  unfold step
  rw [if_pos hl]
  cases hd : decode p <;> simp only [fetch, hin, hd]

/-- Every command answers a next state: none faults and none refuses. -/
theorem exec_answers (i : Instr) (s : State) : ∃ t, exec i s = .next t := by
  cases i <;> exact ⟨_, rfl⟩

end Sys2Proof.Machine
end

