-- ==== Sys2Proof/Laws/Transport.lean ====
section
/-! SUPPORT. What a request on the transport port can do, said once for each operation that issues one. -/

namespace Sys2Proof.Machine

/-- The state a command has reached, running or ended. -/
def Progress.state : Progress → State
  | .running s => s
  | .ended s => s

@[simp] theorem state_running (s : State) : (Progress.running s).state = s := rfl
@[simp] theorem state_ended (s : State) : (Progress.ended s).state = s := rfl

/-- One FRAME: answered true, it is recorded and the command goes on; answered false, it is recorded and
the command ends in FAILED (R171 to R173). -/
theorem emit_cases (f : List Byte) (s : State) :
    (nextAnswer s = true ∧ emit f s = .running (afterRequest (.frame f true) s)) ∨
    (nextAnswer s = false ∧
      emit f s = .ended (enterFailed .transmissionFailure (afterRequest (.frame f false) s))) := by
  unfold emit
  cases h : nextAnswer s
  · exact .inr ⟨rfl, rfl⟩
  · exact .inl ⟨rfl, rfl⟩

@[simp] theorem nextAnswer_cons {s : State} {a : Bool} {rest : List Bool} (h : s.answers = a :: rest) :
    nextAnswer s = a := by
  simp [nextAnswer, h]

/-- A property every FRAME keeps, whatever its answer, holds after emit_cmd of each byte of a list. -/
theorem emitCmds_keeps (P : State → Prop)
    (hrun : ∀ b s, P s → P (afterRequest (.frame (cmdFrame s.cfg b) true) s))
    (hend : ∀ b s, P s →
      P (enterFailed .transmissionFailure (afterRequest (.frame (cmdFrame s.cfg b) false) s)))
    (bs : List Byte) (s : State) (h : P s) : P (emitCmds bs s).state := by
  induction bs generalizing s with
  | nil => exact h
  | cons b bs ih =>
    rcases emit_cases (cmdFrame s.cfg b) s with ⟨_, he⟩ | ⟨_, he⟩
    · simpa [emitCmds, emitCmd, he] using ih _ (hrun b s h)
    · simpa [emitCmds, emitCmd, he] using hend b s h

/-- FRAMEs change neither the build, FB, TRANSPORT_HELD nor the host's inputs. -/
theorem emitCmds_frame (bs : List Byte) (s : State) :
    (emitCmds bs s).state.cfg = s.cfg ∧ (emitCmds bs s).state.fb = s.fb ∧
      (emitCmds bs s).state.transportHeld = s.transportHeld ∧
      (emitCmds bs s).state.dirty = s.dirty ∧ (emitCmds bs s).state.hostIn = s.hostIn :=
  emitCmds_keeps
    (fun t => t.cfg = s.cfg ∧ t.fb = s.fb ∧ t.transportHeld = s.transportHeld ∧ t.dirty = s.dirty ∧
      t.hostIn = s.hostIn)
    (fun _ _ h => by simpa using h) (fun _ _ h => by simpa using h) bs s ⟨rfl, rfl, rfl, rfl, rfl⟩

/-- One FRAME whose answer is the next of the list, true. -/
theorem emit_true {s : State} {rest : List Bool} (f : List Byte) (h : s.answers = true :: rest) :
    emit f s = .running { s with answers := rest, transport := s.transport ++ [.frame f true] } := by
  simp [emit, nextAnswer_cons h, afterRequest, h]

/-- One FRAME whose answer is the next of the list, false. -/
theorem emit_false {s : State} {rest : List Bool} (f : List Byte) (h : s.answers = false :: rest) :
    emit f s = .ended { s with
      answers := rest, transport := s.transport ++ [.frame f false], ctl := .failed
      fatalCause := 0x02, lastStatus := 0x02, hostOut := s.hostOut ++ [⟨0x02, 0x00⟩] } := by
  simp [emit, nextAnswer_cons h, afterRequest, h, enterFailed, finish, respond, Status.code]

end Sys2Proof.Machine
end

