-- ==== Sys2Proof/Tests/Slice0.lean ====
section
/-! SUPPORT. Tests, each with its expected result from spec/95_test_vectors.md or from the rule it names, and for
every statement with hypotheses a witness that meets them. -/

namespace Sys2Proof.Tests

open Sys2Proof.Machine Sys2Proof.Safety Sys2Proof.Claims

/-! ## Small builds and states -/

/-- TF of 95_test_vectors.md §0. -/
def testFont : List (Byte × List Byte) :=
  [(0x41, [0x7E, 0x11, 0x11, 0x11, 0x7E]), (0x42, [0x7F, 0x49, 0x49, 0x49, 0x36])]

/-- The build of vectors F29 to F33, with DIRTY_TRACKING = 1. -/
def small : Config :=
  { width := 16, height := 8, devAddr := 0x3C, dirtyTracking := true, glyphWidth := .five,
    textSpacing := 1, font := testFont }

/-- A build of two pages. -/
def tall : Config := { small with height := 16 }

/-- A run of build `c` in controller state `ctl`, pixel (15, 7) lit and page 0 dirty. -/
def run (c : Config) (ctl : ControllerState) (answers : List Bool) : State :=
  { State.resetOf c with
    ctl := ctl, transportHeld := true, fb := [(15, 0x80)], dirty := 0x01, answers := answers }

/-- A run of build `c` in STREAMING, FB all zero and no page dirty: S1 of 95_test_vectors.md §0. -/
def s1 (c : Config) : State :=
  { State.resetOf c with ctl := .streaming, transportHeld := true }

/-- FAILED after a transmission failure. -/
def failed : State :=
  { State.resetOf small with
    ctl := .failed, transportHeld := true, dirty := 0x01, lastStatus := 0x02, fatalCause := 0x02 }

/-- CLOSED, with the Transport's next answers. -/
def closed (answers : List Bool) : State := { State.resetOf small with answers := answers }

/-- `s` with packet `p` presented. -/
def State.given (s : State) (p : List Byte) : State := { s with hostIn := [.packet p] }

/-- The next state of an outcome. -/
def next? : Host.Outcome State Fault Refusal → Option State
  | .next s => some s
  | .fault _ => none
  | .refused _ => none

/-- Some fact of the next state of an outcome. -/
def look {α : Type} (o : Host.Outcome State Fault Refusal) (f : State → α) : Option α := (next? o).map f

/-- The step of packet `p` at `s`: FB's listed bytes, DIRTY, LAST_STATUS and the responses. -/
def drawn (s : State) (p : List Byte) : Option (Memory × Byte × Byte × List Response) :=
  look (step (State.given s p)) fun t => (t.fb, t.dirty, t.lastStatus, t.hostOut)

/-- Two packets, one after the other. -/
def then2 (s : State) (p q : List Byte) : Option (Memory × Byte × Byte × List Response) :=
  (next? (step (State.given s p))).bind fun t => drawn t q

/-! ## Well-formedness: ill-formed commands are refused (R77, R74) -/

theorem test_wf_refuses_four_columns : (Instr.drawGlyph 0 0 true [1, 2, 3, 4]).wf = false := by decide
theorem test_wf_refuses_seven_columns :
    (Instr.drawGlyph 0 0 true [1, 2, 3, 4, 5, 6, 7]).wf = false := by decide
theorem test_wf_refuses_scale_zero : (Instr.drawText 0 0 0 [0x41]).wf = false := by decide
theorem test_wf_refuses_long_text : (Instr.drawText 0 0 1 (List.replicate 256 0x41)).wf = false := by
  decide +kernel

/-! ## Decoding: one packet of each command, written out from R71 to R73 -/

theorem test_decode_OPEN : decode [0x01] = .ok .cmdOpen := by decide
theorem test_decode_INIT : decode [0x02] = .ok .cmdInit := by decide
theorem test_decode_FLUSH : decode [0x03] = .ok .cmdFlush := by decide
theorem test_decode_CLOSE : decode [0x04] = .ok .cmdClose := by decide
theorem test_decode_CLEAR : decode [0x10] = .ok .clear := by decide
/-- E2. -/
theorem test_decode_SET_PIXEL :
    decode [0x11, 0x00, 0x80, 0x00, 0x80, 0x01] = .ok (.setPixel (-32768) (-32768) true) := by decide
/-- E4. -/
theorem test_decode_FILL_RECT :
    decode [0x12, 0x00, 0x00, 0x00, 0x00, 0xFD, 0xFF, 0x04, 0x00, 0x01] =
      .ok (.fillRect 0 0 (-3) 4 true) := by decide
/-- Program P2. -/
theorem test_decode_DRAW_LINE :
    decode [0x13, 0x00, 0x00, 0x0F, 0x00, 0x7F, 0x00, 0x0F, 0x00, 0x01] =
      .ok (.drawLine 0 15 127 15 true) := by decide
/-- E5. -/
theorem test_decode_DRAW_CIRCLE :
    decode [0x14, 0x40, 0x00, 0x28, 0x00, 0x03, 0x00, 0x01] = .ok (.drawCircle 64 40 3 true) := by decide
/-- Program P2. -/
theorem test_decode_DRAW_GLYPH :
    decode [0x15, 0x7C, 0x00, 0x38, 0x00, 0x00, 0x05, 0x7E, 0x11, 0x11, 0x11, 0x7E] =
      .ok (.drawGlyph 124 56 false [0x7E, 0x11, 0x11, 0x11, 0x7E]) := by decide
/-- E7. -/
theorem test_decode_DRAW_TEXT :
    decode [0x16, 0x00, 0x00, 0x00, 0x00, 0x01, 0x02, 0x41, 0x42] = .ok (.drawText 0 0 1 [0x41, 0x42]) := by
  decide
/-- E9. -/
theorem test_decode_READ_BYTE : decode [0x20, 0xFF, 0x03] = .ok (.readByte 1023) := by decide
/-- E10. -/
theorem test_decode_READ_REG : decode [0x21, 0x09] = .ok (.readReg 0x09) := by decide

/-- I1 to I9: empty, reserved opcodes, wrong lengths. -/
theorem test_decode_refuses_opcodes_and_lengths :
    decode [] = .error .emptyPacket ∧ decode [0x00] = .error .reservedOpcode ∧
    decode [0x05] = .error .reservedOpcode ∧ decode [0x17] = .error .reservedOpcode ∧
    decode [0x22] = .error .reservedOpcode ∧ decode [0xFF] = .error .reservedOpcode ∧
    decode [0x01, 0x00] = .error .wrongLength ∧
    decode [0x11, 0x00, 0x00, 0x00, 0x00] = .error .wrongLength ∧
    decode [0x11, 0x00, 0x00, 0x00, 0x00, 0x01, 0x00] = .error .wrongLength := by decide

/-- I10 to I18: reserved field values and the lengths the count byte decides. -/
theorem test_decode_refuses_fields_and_counts :
    decode [0x11, 0x00, 0x00, 0x00, 0x00, 0x02] = .error .reservedOn ∧
    decode [0x15, 0x00, 0x00, 0x00, 0x00, 0x01] = .error .noCountByte ∧
    decode [0x15, 0x00, 0x00, 0x00, 0x00, 0x01, 0x04, 0x7E, 0x11, 0x11, 0x11] =
      .error .reservedColumnCount ∧
    decode [0x15, 0x00, 0x00, 0x00, 0x00, 0x01, 0x05, 0x01, 0x02, 0x03, 0x04] = .error .wrongLength ∧
    decode [0x16, 0x00, 0x00, 0x00, 0x00, 0x00, 0x01, 0x41] = .error .reservedScale ∧
    decode [0x16, 0x00, 0x00, 0x00, 0x00, 0x01, 0x02, 0x41] = .error .wrongLength ∧
    decode [0x21] = .error .wrongLength ∧ decode [0x21, 0x00, 0x00] = .error .wrongLength ∧
    decode [0x20, 0x00] = .error .wrongLength := by decide

/-- The opcode table's numbering: bit 0 is the least significant bit of the first byte. -/
theorem test_decode_table_words :
    decodeTableWord 8 0x10 = some .clear ∧ decodeTableWord 8 0x11 = some (.setPixel 0 0 false) ∧
    decodeTableWord 24 0x03FF20 = some (.readByte 1023) ∧ decodeTableWord 16 0x0921 = some (.readReg 9) ∧
    decodeTableWord 8 0x15 = none ∧ decodeTableWord 8 0x16 = none := by decide

/-- `step` runs the word that `withFetchWord` presents (R29: STATE is CLOSED, not held). -/
theorem test_withFetchWord :
    look (step (State.reset.withFetchWord 8 0x21)) (fun t => t.hostOut) = some [⟨0x00, 0x00⟩] := by decide

/-! ## The controller commands -/

/-- K2: after OPEN, READ_REG 0x00 is 0x09 and READ_REG 0x09 shows every flag set. -/
theorem test_OPEN :
    look (step (State.given (closed [true]) [0x01]))
      (fun t => (regVal t 0x00, t.dirty, t.hostOut, t.transport)) =
      some (some 0x09, 0x01, [⟨0x00, 0x00⟩], [.acquire true]) := by decide

/-- K7: after a failed OPEN, READ_REG 0x00 is 0x04 and the cause is 0x01. -/
theorem test_OPEN_refused_by_the_transport :
    look (step (State.given (closed [false]) [0x01]))
      (fun t => (regVal t 0x00, t.lastStatus, t.fatalCause, t.dirty, t.hostOut)) =
      some (some 0x04, 0x01, 0x01, 0x00, [⟨0x01, 0x00⟩]) := by decide

/-- K3: 25 frames, the first C(AE), the last C(AF); READ_REG 0x00 is 0x0A. -/
theorem test_INIT :
    look (step (State.given (run small .opening (List.replicate 25 true)) [0x02]))
      (fun t => (regVal t 0x00, t.transport.length, t.transport.head?, t.transport.getLast?)) =
      some (some 0x0A, 25, some (.frame [0x78, 0x00, 0xAE] true), some (.frame [0x78, 0x00, 0xAF] true)) := by
  decide

/-- K5: the 8th frame, C(40), answered false ends INIT in FAILED. -/
theorem test_INIT_cut_at_the_eighth_frame :
    look (step (State.given (run small .opening (List.replicate 7 true ++ [false, true])) [0x02]))
      (fun t => (regVal t 0x00, t.fatalCause, t.transport.length, t.transport.getLast?, t.answers)) =
      some (some 0x0C, 0x02, 8, some (.frame [0x78, 0x00, 0x40] false), [true]) := by decide

/-- K10's frames, on the small build: C(B0) C(00) C(10) and the 16 bytes of page 0. -/
theorem test_FLUSH :
    look (step (State.given (run small .initialized (List.replicate 4 true)) [0x03]))
      (fun t => (t.transport, t.dirty, regVal t 0x00)) =
      some ([.frame [0x78, 0x00, 0xB0] true, .frame [0x78, 0x00, 0x00] true, .frame [0x78, 0x00, 0x10] true,
        .frame ([0x78, 0x40] ++ List.replicate 15 0x00 ++ [0x80]) true], 0x00, some 0x0B) := by decide

/-- K6's shape, on two dirty pages: the data frame of page 1 answered false keeps page 1's flag. -/
theorem test_FLUSH_cut_in_the_second_page :
    look (step (State.given
        { run tall .streaming (List.replicate 7 true ++ [false]) with dirty := 0x03 } [0x03]))
      (fun t => (t.transport.length, t.dirty, regVal t 0x00, t.hostOut)) =
      some (8, 0x02, some 0x0C, [⟨0x02, 0x00⟩]) := by decide

/-- K14: CLOSE in CLOSED releases nothing. -/
theorem test_CLOSE_in_CLOSED :
    look (exec .cmdClose (closed [])) (fun t => (t.ctl, t.transport, t.hostOut)) =
      some (.closed, [], [⟨0x00, 0x00⟩]) := by decide

/-- K5's end: CLOSE after a transmission failure issues RELEASE and keeps FATAL_CAUSE. -/
theorem test_CLOSE_in_FAILED :
    look (exec .cmdClose failed) (fun t => (regVal t 0x00, t.dirty, t.fatalCause, t.transport)) =
      some (some 0x00, 0x00, 0x02, [.release]) := by decide

/-- K16: the registers of a build, after OPEN. -/
theorem test_READ_REG_of_a_build :
    (List.range 10).map (fun r => regVal
        (openGranted (State.resetOf
          { width := 64, height := 32, devAddr := 0x3D, dirtyTracking := true, glyphWidth := .six,
            textSpacing := 0, font := [] })) (BitVec.ofNat 8 r)) =
      [some 0x09, some 0x00, some 0x00, some 0x40, some 0x20, some 0x04, some 0x3D, some 0x61, some 0x00,
       some 0x0F] := by decide

/-- RG12: READ_REG 0x0A is RANGE_ERROR and leaves LAST_STATUS. -/
theorem test_READ_REG_out_of_range :
    drawn { s1 small with lastStatus := 0x12 } [0x21, 0x0A] = some ([], 0x00, 0x12, [⟨0x12, 0x00⟩]) := by
  decide

/-! ## The framebuffer commands -/

/-- F18, F19: CLEAR dirties the pages that held a nonzero byte. -/
theorem test_CLEAR :
    drawn { s1 tall with fb := [(19, 0x02)] } [0x10] = some ([], 0x02, 0x00, [⟨0x00, 0x00⟩]) := by decide

/-- F20: CLEAR of a zero buffer changes nothing. -/
theorem test_CLEAR_of_zero : drawn (s1 tall) [0x10] = some ([], 0x00, 0x00, [⟨0x00, 0x00⟩]) := by decide

/-- F29: the last pixel of the small build. -/
theorem test_SET_PIXEL :
    drawn (s1 small) [0x11, 0x0F, 0x00, 0x07, 0x00, 0x01] =
      some ([(15, 0x80)], 0x01, 0x00, [⟨0x00, 0x00⟩]) := by decide

/-- F7: out of bounds nothing changes, and the status is OK. -/
theorem test_SET_PIXEL_out_of_bounds :
    drawn (s1 small) [0x11, 0xFF, 0xFF, 0x00, 0x00, 0x01] = some ([], 0x00, 0x00, [⟨0x00, 0x00⟩]) := by
  decide

/-- F16, with WIDTH 16: a rectangle across two pages. -/
theorem test_FILL_RECT :
    drawn (s1 tall) [0x12, 0x00, 0x00, 0x06, 0x00, 0x02, 0x00, 0x04, 0x00, 0x01] =
      some ([(0, 0xC0), (1, 0xC0), (16, 0x03), (17, 0x03)], 0x03, 0x00, [⟨0x00, 0x00⟩]) := by decide

/-- F24: a negative corner. -/
theorem test_FILL_RECT_at_a_negative_corner :
    drawn (s1 tall) [0x12, 0xFE, 0xFF, 0xFE, 0xFF, 0x04, 0x00, 0x04, 0x00, 0x01] =
      some ([(0, 0x03), (1, 0x03)], 0x01, 0x00, [⟨0x00, 0x00⟩]) := by decide

/-- F32. -/
theorem test_READ_BYTE :
    drawn (run small .streaming []) [0x20, 0x0F, 0x00] =
      some ([(15, 0x80)], 0x01, 0x00, [⟨0x00, 0x80⟩]) := by decide

/-- F33: index WIDTH*PAGES is out of range. -/
theorem test_READ_BYTE_out_of_range :
    drawn (run small .streaming []) [0x20, 0x10, 0x00] =
      some ([(15, 0x80)], 0x01, 0x12, [⟨0x12, 0x00⟩]) := by decide

/-! ## The rasterizer commands -/

/-- L6 and L7: a tie, and the reversed line, which lights another pixel. -/
theorem test_DRAW_LINE_ties :
    linePoints 0 0 2 1 = [(0, 0), (1, 0), (2, 1)] ∧ linePoints 2 1 0 0 = [(2, 1), (1, 1), (0, 0)] := by
  decide

/-- L8: leftwards and downwards. -/
theorem test_DRAW_LINE :
    drawn (s1 small) [0x13, 0x03, 0x00, 0x00, 0x00, 0x00, 0x00, 0x02, 0x00, 0x01] =
      some ([(0, 0x04), (1, 0x02), (2, 0x02), (3, 0x01)], 0x01, 0x00, [⟨0x00, 0x00⟩]) := by decide

/-- CI7: three of the five points land. -/
theorem test_DRAW_CIRCLE :
    drawn (s1 small) [0x14, 0x00, 0x00, 0x00, 0x00, 0x01, 0x00, 0x01] =
      some ([(0, 0x03), (1, 0x01)], 0x01, 0x00, [⟨0x00, 0x00⟩]) := by decide

/-- R133: N(0) to N(5). -/
theorem test_DRAW_CIRCLE_counts :
    [0, 1, 2, 3, 4, 5].map (fun r => (circlePoints 0 0 r).length) = [1, 5, 13, 29, 49, 81] := by
  decide +kernel

/-- GL5: columns 3 and 4, rows 0 to 3. -/
theorem test_DRAW_GLYPH :
    drawn (s1 small) [0x15, 0xFD, 0xFF, 0xFC, 0xFF, 0x01, 0x05, 0x7E, 0x11, 0x11, 0x11, 0x7E] =
      some ([(0, 0x01), (1, 0x07)], 0x01, 0x00, [⟨0x00, 0x00⟩]) := by decide

/-- GL8's rule: the 0 bits of a glyph leave lit pixels lit. -/
theorem test_DRAW_GLYPH_is_transparent :
    drawn { s1 small with fb := [(0, 0x01)] }
        [0x15, 0x00, 0x00, 0x00, 0x00, 0x01, 0x05, 0x7E, 0x00, 0x00, 0x00, 0x00] =
      some ([(0, 0x7F)], 0x01, 0x00, [⟨0x00, 0x00⟩]) := by decide

/-- T4: an unmapped character is blank and still advances. -/
theorem test_DRAW_TEXT :
    drawn (s1 small) [0x16, 0x00, 0x00, 0x00, 0x00, 0x01, 0x02, 0x3F, 0x41] =
      some ([(6, 0x7E), (7, 0x11), (8, 0x11), (9, 0x11), (10, 0x7E)], 0x01, 0x00, [⟨0x00, 0x00⟩]) := by
  decide +kernel

/-- T3, with WIDTH 16: each pixel is a 2 by 2 block. -/
theorem test_DRAW_TEXT_scaled :
    drawn (s1 tall) [0x16, 0x00, 0x00, 0x00, 0x00, 0x02, 0x01, 0x41] =
      some ([(0, 0xFC), (1, 0xFC), (2, 0x03), (3, 0x03), (4, 0x03), (5, 0x03), (6, 0x03), (7, 0x03),
        (8, 0xFC), (9, 0xFC), (16, 0x3F), (17, 0x3F), (18, 0x03), (19, 0x03), (20, 0x03), (21, 0x03),
        (22, 0x03), (23, 0x03), (24, 0x3F), (25, 0x3F)], 0x03, 0x00, [⟨0x00, 0x00⟩]) := by decide +kernel

/-! ## Errors, reset, tables, assembler -/

/-- I10 in CLOSED: ILLEGAL_COMMAND before STATE_ERROR (R225). -/
theorem test_illegal_before_state :
    drawn (closed []) [0x11, 0x00, 0x00, 0x00, 0x00, 0x02] = some ([], 0x00, 0x10, [⟨0x10, 0x00⟩]) := by
  decide

/-- I16: an illegal packet with opcode 0x21 leaves LAST_STATUS. -/
theorem test_illegal_READ_REG :
    drawn failed [0x21] = some ([], 0x01, 0x02, [⟨0x10, 0x00⟩]) := by decide

/-- Z10: a drawing command in FAILED. -/
theorem test_state_error :
    drawn failed [0x11, 0x01, 0x00, 0x01, 0x00, 0x01] = some ([], 0x01, 0x11, [⟨0x11, 0x00⟩]) := by decide

/-- R250: a reset event, with no Transport request. -/
theorem test_reset_event :
    look (step { failed with hostIn := [.reset] })
      (fun t => ((t.ctl, t.transportHeld, t.dirty), t.lastStatus, t.fatalCause, t.transport.length)) =
      some ((.closed, false, 0x00), 0x00, 0x00, 0) := by decide

/-- R84's steps hold the bytes of R30's table, in order. -/
theorem test_INIT_SEQ : initSteps.flatMap (fun s => s.2) = initSeq ∧ initSeq.length = 25 := by decide

/-- The first lines of program P2, and a line whose number does not fit its field. -/
theorem test_assemble :
    assemble "OPEN ; 01\nCLEAR\n\nDRAW_TEXT 0, 0, 1, \"AB\" ; text" =
      some [[0x01], [0x10], [0x16, 0x00, 0x00, 0x00, 0x00, 0x01, 0x02, 0x41, 0x42]] ∧
    assemble "SET_PIXEL 32768, 0, 1" = none := by decide +kernel

/-- GL10 and T6: the assembler writes the packet, the decoder refuses it. -/
theorem test_assemble_reserved_values :
    assemble "DRAW_GLYPH 0, 0, 1, [0x7E,0x11,0x11,0x11]" =
      some [[0x15, 0x00, 0x00, 0x00, 0x00, 0x01, 0x04, 0x7E, 0x11, 0x11, 0x11]] ∧
    assemble "DRAW_TEXT 0, 0, 0, \"A\"" = some [[0x16, 0x00, 0x00, 0x00, 0x00, 0x00, 0x01, 0x41]] := by
  decide +kernel

/-! ## States that meet the invariant -/

theorem small_legal : small.Legal := by decide
theorem tall_legal : tall.Legal := by decide

theorem closed_inv (answers : List Bool) (ins : List HostInput) :
    CoreInv { closed answers with hostIn := ins } :=
  ⟨small_legal, ⟨List.Pairwise.nil, by simp [closed, State.resetOf]⟩, by simp [closed, State.resetOf],
   (show (0x00 : Byte) &&& pagesMask small = 0x00 by decide),
   (show (0x00 : Byte) ∈ statusCodes by decide), (show (0x00 : Byte) ∈ fatalCauses by decide),
   fun _ => ⟨rfl, rfl⟩, nofun, nofun⟩

theorem failed_inv (ins : List HostInput) : CoreInv { failed with hostIn := ins } :=
  ⟨small_legal, ⟨List.Pairwise.nil, by simp [failed, State.resetOf]⟩, by simp [failed, State.resetOf],
   (show (0x01 : Byte) &&& pagesMask small = 0x01 by decide),
   (show (0x02 : Byte) ∈ statusCodes by decide), (show (0x02 : Byte) ∈ fatalCauses by decide),
   nofun, nofun, fun _ => .inr ⟨rfl, rfl⟩⟩

theorem run_inv (ctl : ControllerState) (h : ctl.fbValid = true) (answers : List Bool)
    (ins : List HostInput) : CoreInv { run small ctl answers with hostIn := ins } := by
  refine ⟨small_legal, (show Memory.wf [(15, 0x80)] by decide),
    (show ∀ c ∈ [(15, (0x80 : Byte))], c.1 < small.fbSize by decide),
    (show (0x01 : Byte) &&& pagesMask small = 0x01 by decide),
    (show (0x00 : Byte) ∈ statusCodes by decide), (show (0x00 : Byte) ∈ fatalCauses by decide),
    fun e => ?_, fun _ => ⟨rfl, rfl⟩, fun e => ?_⟩
  · have e : ctl = .closed := e
    rw [e] at h
    cases h
  · have e : ctl = .failed := e
    rw [e] at h
    cases h

theorem run_tall_inv : CoreInv { run tall .streaming [true, true, true, true, true, true, true, false] with
    dirty := 0x03 } :=
  ⟨tall_legal, (show Memory.wf [(15, 0x80)] by decide),
   (show ∀ c ∈ [(15, (0x80 : Byte))], c.1 < tall.fbSize by decide),
   (show (0x03 : Byte) &&& pagesMask tall = 0x03 by decide),
   (show (0x00 : Byte) ∈ statusCodes by decide), (show (0x00 : Byte) ∈ fatalCauses by decide),
   nofun, fun _ => ⟨rfl, rfl⟩, nofun⟩

/-! ## Witnesses: the hypotheses of each statement, met together -/

theorem witness_EncodedCommandDecodesToItself :
    (Instr.drawText 0 0 255 (List.replicate 255 0x41)).wf = true ∧
    (Instr.drawGlyph (-1) 0 true [1, 2, 3, 4, 5]).wf = true ∧
    (Instr.drawGlyph (-1) 0 true [1, 2, 3, 4, 5, 6]).wf = true := by decide +kernel

theorem witness_DecodedPacketIsItsCommandsEncoding :
    decode [0x16, 0x00, 0x80, 0xFF, 0x7F, 0xFF, 0x00] = .ok (.drawText (-32768) 32767 255 []) := by decide

/-- The ends of R76's ranges. -/
theorem witness_ReservedOpcodesAreIllegal :
    (∀ b ∈ [(0x00 : Byte), 0x05, 0x0F, 0x17, 0x1F, 0x22, 0xFF],
      Takes (State.given failed (b :: [])) (b :: []) [] ∧ ReservedOpcode b) ∧
    ∀ b ∈ [(0x01 : Byte), 0x04, 0x10, 0x16, 0x20, 0x21], ¬ ReservedOpcode b := by
  refine ⟨fun b hb => ⟨⟨small_legal, rfl⟩, ?_⟩, fun b hb => ?_⟩
  · revert b
    unfold ReservedOpcode
    decide
  · revert b
    unfold ReservedOpcode
    decide

/-- The empty packet, a packet with no count byte, one byte too many and one too few. -/
theorem witness_WrongLengthIsIllegal :
    ∀ p ∈ [[], [(0x15 : Byte), 0, 0, 0, 0, 1], [0x01, 0x00], [0x16, 0, 0, 0, 0, 1, 2, 0x41]],
      Takes (State.given failed p) p [] ∧ ¬ LengthAgrees p := by
  intro p hp
  refine ⟨⟨small_legal, rfl⟩, ?_⟩
  rintro ⟨b, rest, rfl, h⟩
  simp only [List.mem_cons, List.cons.injEq, List.not_mem_nil, or_false, reduceCtorEq, false_or] at hp
  rcases hp with ⟨rfl, rfl⟩ | ⟨rfl, rfl⟩ | ⟨rfl, rfl⟩ <;> simp [packetLength] at h

/-- A right length, with a reserved field value and without. -/
theorem witness_OnlyReservedFieldsAreIllegal :
    (LengthAgrees [0x11, 0, 0, 0, 0, 2] ∧ ReservedField [0x11, 0, 0, 0, 0, 2]) ∧
    (LengthAgrees [0x16, 0, 0, 0, 0, 1, 0] ∧ ¬ ReservedField [0x16, 0, 0, 0, 0, 1, 0]) := by
  refine ⟨⟨⟨_, _, rfl, by simp [packetLength]⟩, ?_⟩, ⟨_, _, rfl, by simp [packetLength]⟩, ?_⟩
  · unfold ReservedField
    decide
  · unfold ReservedField
    decide

theorem witness_StepRunsTheDecodedCommand :
    Takes (State.given (run small .streaming []) [0x10]) [0x10] [] ∧ decode [0x10] = .ok .clear :=
  ⟨⟨small_legal, rfl⟩, by decide⟩

theorem witness_UndecodedPacketIsIllegalCommand :
    (Takes (State.given failed [0x21]) [0x21] [] ∧ decode [0x21] = .error .wrongLength) ∧
    (Takes (State.given failed [0x22]) [0x22] [] ∧ decode [0x22] = .error .reservedOpcode) :=
  ⟨⟨⟨small_legal, rfl⟩, by decide⟩, ⟨small_legal, rfl⟩, by decide⟩

/-- The ends of R6's ranges, and builds one beyond them. -/
theorem witness_StepWaitsAndRefusesIllegalBuilds :
    (failed.cfg.Legal ∧ failed.hostIn = []) ∧
    (State.resetOf { small with width := 128, height := 64 }).cfg.Legal ∧
    (State.resetOf { small with width := 1 }).cfg.Legal ∧
    ¬ (State.resetOf { small with width := 0 }).cfg.Legal ∧
    ¬ (State.resetOf { small with width := 129 }).cfg.Legal ∧
    ¬ (State.resetOf { small with height := 72 }).cfg.Legal ∧
    ¬ (State.resetOf { small with height := 12 }).cfg.Legal := by decide

theorem witness_EveryStepOfALegalBuildAnswers : (State.given failed [0x04]).cfg.Legal := small_legal

theorem witness_ResetEventRestoresTheResetValues :
    failed.cfg.Legal ∧ ({ failed with hostIn := [.reset, .packet [0x01]] } : State).hostIn =
      .reset :: [.packet [0x01]] := ⟨small_legal, rfl⟩

theorem witness_StepKeepsTheInvariant :
    ∃ s t, CoreInv s ∧ step s = .next t ∧ t ≠ s :=
  ⟨{ run small .opening [] with hostIn := [.packet [0x10]] }, _, run_inv _ rfl _ _, rfl, by decide⟩

/-- A run in STREAMING whose only page is clean, and a step that draws on it. -/
theorem witness_StepKeepsCleanPagesAsShown :
    ∃ s t, CoreInv s ∧ CleanPagesShown s ∧ dirtyAt s.dirty 0 = false ∧ s.ctl.fbValid = true ∧
      step s = .next t := by
  refine ⟨{ s1 small with
    hostIn := [.packet [0x11, 0x0F, 0x00, 0x07, 0x00, 0x01]]
    transport := [.acquire true, .frame [0x78, 0x00, 0xB0] true,
      .frame ([0x78, 0x40] ++ List.replicate 16 0x00) true] }, _,
    ⟨small_legal, ⟨List.Pairwise.nil, by simp [s1, State.resetOf]⟩, by simp [s1, State.resetOf],
     (show (0x00 : Byte) &&& pagesMask small = 0x00 by decide),
     (show (0x00 : Byte) ∈ statusCodes by decide), (show (0x00 : Byte) ∈ fatalCauses by decide), nofun,
     fun _ => ⟨rfl, rfl⟩, nofun⟩,
    ?_, rfl, rfl, rfl⟩
  intro _ p hp _
  obtain rfl : p = 0 := Nat.lt_one_iff.mp hp
  decide +kernel

theorem witness_NoStepChangesTheBuild :
    ∃ t, step (State.given (closed [true]) [0x01]) = .next t := ⟨_, rfl⟩

/-- A READ_BYTE that reads a nonzero byte, a READ_REG, and a packet that is refused. -/
theorem witness_EveryPacketReturnsOneResponse :
    (∃ s t, Takes s [0x20, 0x0F, 0x00] [] ∧ step s = .next t ∧ t.hostOut = s.hostOut ++ [⟨0x00, 0x80⟩]) ∧
    (∃ s t, Takes s [0x21, 0x00] [] ∧ step s = .next t ∧ t.hostOut = s.hostOut ++ [⟨0x00, 0x0B⟩]) ∧
    ∃ s t, Takes s [] [] ∧ step s = .next t ∧ t.hostOut = s.hostOut ++ [⟨0x10, 0x00⟩] :=
  ⟨⟨State.given (run small .streaming []) _, _, ⟨small_legal, rfl⟩, rfl, rfl⟩,
   ⟨State.given (run small .streaming []) _, _, ⟨small_legal, rfl⟩, rfl, rfl⟩,
   ⟨State.given (run small .streaming []) _, _, ⟨small_legal, rfl⟩, rfl, rfl⟩⟩

theorem witness_LastStatusIsThatOfTheLastOtherPacket :
    (∃ s t r, Takes s [0x21] [] ∧ step s = .next t ∧ t.hostOut = s.hostOut ++ [r]) ∧
    ∃ s t r, Takes s [0x02] [] ∧ step s = .next t ∧ t.hostOut = s.hostOut ++ [r] :=
  ⟨⟨State.given failed _, _, _, ⟨small_legal, rfl⟩, rfl, rfl⟩,
   ⟨State.given failed _, _, _, ⟨small_legal, rfl⟩, rfl, rfl⟩⟩

/-- The four cases: both fatal codes, a successful OPEN, and another command. -/
theorem witness_FatalCauseIsWrittenByFailureAndOpenOnly :
    (∃ s t, CoreInv s ∧ Takes s [0x01] [] ∧ step s = .next t ∧ t.hostOut = s.hostOut ++ [⟨0x01, 0x00⟩]) ∧
    (∃ s t, CoreInv s ∧ Takes s [0x03] [] ∧ step s = .next t ∧ t.hostOut = s.hostOut ++ [⟨0x02, 0x00⟩]) ∧
    (∃ s t, CoreInv s ∧ Takes s [0x01] [] ∧ step s = .next t ∧ t.hostOut = s.hostOut ++ [⟨0x00, 0x00⟩]) ∧
    ∃ s t, CoreInv s ∧ Takes s [0x04] [] ∧ step s = .next t ∧ t.hostOut = s.hostOut ++ [⟨0x00, 0x00⟩] :=
  ⟨⟨State.given (closed [false]) _, _, closed_inv _ _, ⟨small_legal, rfl⟩, rfl, rfl⟩,
   ⟨State.given (run small .streaming [true, true, false]) _, _, run_inv _ rfl _ _, ⟨small_legal, rfl⟩, rfl, rfl⟩,
   ⟨State.given (closed [true]) _, _, closed_inv _ _, ⟨small_legal, rfl⟩, rfl, rfl⟩,
   ⟨State.given failed _, _, failed_inv _, ⟨small_legal, rfl⟩, rfl, rfl⟩⟩

theorem witness_TransportIsHeldFromOpenToClose :
    (∃ s t, CoreInv s ∧ Takes s [0x01] [] ∧ step s = .next t ∧ t.hostOut = s.hostOut ++ [⟨0x00, 0x00⟩]) ∧
    (∃ s t, CoreInv s ∧ Takes s [0x04] [] ∧ step s = .next t ∧ t.hostOut = s.hostOut ++ [⟨0x00, 0x00⟩]) ∧
    ∃ s t, CoreInv s ∧ Takes s [0x01] [] ∧ step s = .next t ∧ t.hostOut = s.hostOut ++ [⟨0x01, 0x00⟩] :=
  ⟨⟨State.given (closed [true]) _, _, closed_inv _ _, ⟨small_legal, rfl⟩, rfl, rfl⟩,
   ⟨State.given failed _, _, failed_inv _, ⟨small_legal, rfl⟩, rfl, rfl⟩,
   ⟨State.given (closed [false]) _, _, closed_inv _ _, ⟨small_legal, rfl⟩, rfl, rfl⟩⟩

theorem witness_AcquiresAndReleasesBalance :
    (∃ s t, CoreInv s ∧ Takes s [0x01] [] ∧ step s = .next t ∧ t.transport = [.acquire true]) ∧
    ∃ s t, CoreInv s ∧ Takes s [0x04] [] ∧ step s = .next t ∧ t.transport = [.release] :=
  ⟨⟨State.given (closed [true]) _, _, closed_inv _ _, ⟨small_legal, rfl⟩, rfl, rfl⟩,
   ⟨State.given failed _, _, failed_inv _, ⟨small_legal, rfl⟩, rfl, rfl⟩⟩

/-- A non-fatal error, and a command that moves STATE. -/
theorem witness_StateMovesOnlyAsTheTableSays :
    (∃ s t, exec .clear s = .next t ∧ t.hostOut = s.hostOut ++ [⟨0x11, 0x00⟩]) ∧
    (∃ s t, exec (.readByte 16) s = .next t ∧ t.hostOut = s.hostOut ++ [⟨0x12, 0x00⟩]) ∧
    ∃ s t, exec .cmdOpen s = .next t ∧ t.hostOut = s.hostOut ++ [⟨0x01, 0x00⟩] ∧ s.ctl ≠ t.ctl :=
  ⟨⟨failed, _, rfl, rfl⟩, ⟨run small .opening [], _, rfl, rfl⟩, ⟨closed [false], _, rfl, rfl, by decide⟩⟩

theorem witness_OnlyCloseLeavesFailed :
    (∃ t r, failed.ctl = .failed ∧ Takes (State.given failed [0x04]) [0x04] [] ∧
      step (State.given failed [0x04]) = .next t ∧ t.hostOut = failed.hostOut ++ [r]) ∧
    ∃ t r, Takes (State.given failed [0x01]) [0x01] [] ∧
      step (State.given failed [0x01]) = .next t ∧ t.hostOut = failed.hostOut ++ [r] :=
  ⟨⟨_, _, rfl, ⟨small_legal, rfl⟩, rfl, rfl⟩, ⟨_, _, ⟨small_legal, rfl⟩, rfl, rfl⟩⟩

theorem witness_StateErrorExactlyOutsideTheTable :
    legalFor .cmdInit failed.ctl = false ∧ legalFor .cmdFlush ControllerState.opening = false ∧
    legalFor .cmdOpen (closed []).ctl = true ∧ legalFor .cmdFlush ControllerState.initialized = true := by
  decide

/-- Each of the three codes. -/
theorem witness_NonFatalErrorsArePrecise :
    (∃ s t, Takes s [0x21] [] ∧ step s = .next t ∧ t.hostOut = s.hostOut ++ [⟨0x10, 0x00⟩]) ∧
    (∃ s t, Takes s [0x02] [] ∧ step s = .next t ∧ t.hostOut = s.hostOut ++ [⟨0x11, 0x00⟩]) ∧
    ∃ s t, Takes s [0x21, 0x0A] [] ∧ step s = .next t ∧ t.hostOut = s.hostOut ++ [⟨0x12, 0x00⟩] :=
  ⟨⟨State.given failed _, _, ⟨small_legal, rfl⟩, rfl, rfl⟩,
   ⟨State.given failed _, _, ⟨small_legal, rfl⟩, rfl, rfl⟩,
   ⟨State.given failed _, _, ⟨small_legal, rfl⟩, rfl, rfl⟩⟩

/-- Each of the two codes; the first frame answered false, and a later one. -/
theorem witness_FatalErrorsEnterFailed :
    (∃ s t, Takes s [0x01] [] ∧ step s = .next t ∧ t.hostOut = s.hostOut ++ [⟨0x01, 0x00⟩]) ∧
    (∃ s t, Takes s [0x02] [] ∧ step s = .next t ∧ t.hostOut = s.hostOut ++ [⟨0x02, 0x00⟩]) ∧
    ∃ s t, Takes s [0x03] [] ∧ step s = .next t ∧ t.hostOut = s.hostOut ++ [⟨0x02, 0x00⟩] :=
  ⟨⟨State.given (closed [false]) _, _, ⟨small_legal, rfl⟩, rfl, rfl⟩,
   ⟨State.given (run small .opening [false]) _, _, ⟨small_legal, rfl⟩, rfl, rfl⟩,
   ⟨State.given (run small .streaming [true, true, true, false]) _, _, ⟨small_legal, rfl⟩, rfl, rfl⟩⟩

/-- A step that sends a data frame. -/
theorem witness_EveryFrameSentIsOfTheTwoKinds :
    ∃ s t, step s = .next t ∧
      TransportEvent.frame ([0x78, 0x40] ++ List.replicate 15 0x00 ++ [0x80]) true ∈ t.transport :=
  ⟨State.given (run small .initialized (List.replicate 4 true)) [0x03], _, rfl, by decide⟩

theorem witness_DrawingChangesOnlyTheFramebuffer :
    ∃ s t, isDrawing (.setPixel 0 0 true) = true ∧ exec (.setPixel 0 0 true) s = .next t ∧ t.fb ≠ s.fb :=
  ⟨run small .opening [], _, rfl, rfl, by decide⟩

theorem witness_OpenAcquiresTheTransport :
    ((closed [true]).cfg.Legal ∧ (closed [true]).ctl = .closed) ∧
    ((closed []).cfg.Legal ∧ (closed []).ctl = .closed) ∧ failed.ctl ≠ .closed := by decide

/-- All true; the first frame and the last one answered false; another state. -/
theorem witness_InitReplaysTheSequence :
    ((run small .opening (List.replicate 25 true)).ctl = .opening ∧
      (run small .opening (List.replicate 25 true)).answers = List.replicate 25 true ++ []) ∧
    (0 < 25 ∧ (run small .opening [false]).answers = List.replicate 0 true ++ false :: []) ∧
    (24 < 25 ∧ (run small .opening (List.replicate 24 true ++ [false])).answers =
      List.replicate 24 true ++ false :: []) ∧ failed.ctl ≠ .opening := by decide

/-- A page to send; no page to send; the first frame of one page answered false, and the last frame of the
second of two; another state. -/
theorem witness_FlushSendsTheDirtyPages :
    (CoreInv (run small .initialized (List.replicate 4 true)) ∧
      (run small .initialized (List.replicate 4 true)).answers =
        List.replicate (4 * (sentPages (run small .initialized (List.replicate 4 true))).length) true ++ []) ∧
    (sentPages (s1 small) = [] ∧ (s1 small).ctl = .streaming) ∧
    (CoreInv (run small .streaming [false]) ∧ 0 < 4 * (sentPages (run small .streaming [false])).length ∧
      (run small .streaming [false]).answers = List.replicate 0 true ++ false :: []) ∧
    (∃ s : State, CoreInv s ∧ s.ctl = .streaming ∧ 7 < 4 * (sentPages s).length ∧
      s.answers = List.replicate 7 true ++ false :: []) ∧
    (failed.ctl ≠ .initialized ∧ failed.ctl ≠ .streaming) :=
  ⟨⟨run_inv _ rfl _ [], by decide⟩, by decide, ⟨run_inv _ rfl _ [], by decide, rfl⟩,
   ⟨_, run_tall_inv, rfl, by decide, rfl⟩, by decide⟩

theorem witness_FramesStopAtTheFirstFalseAnswer :
    (run small .opening []).ctl = .opening ∧
    (CoreInv (run small .initialized []) ∧ (run small .initialized []).ctl = .initialized) ∧
    (CoreInv (run small .streaming []) ∧ (run small .streaming []).ctl = .streaming) :=
  ⟨rfl, ⟨run_inv _ rfl _ [], rfl⟩, run_inv _ rfl _ [], rfl⟩

theorem witness_FrameCountsOfInitAndFlush :
    (∃ s t : State, s.ctl = .opening ∧ exec .cmdInit s = .next t ∧ t.ctl = .initialized) ∧
    ∃ s t : State, CoreInv s ∧ s.ctl = .initialized ∧ exec .cmdFlush s = .next t ∧ t.ctl = .streaming :=
  ⟨⟨run small .opening (List.replicate 25 true), _, rfl, rfl, rfl⟩,
   ⟨run small .initialized (List.replicate 4 true), _, run_inv _ rfl _ [], rfl, rfl, rfl⟩⟩

theorem witness_ReadRegReturnsTheRegisterMap :
    CoreInv failed ∧ CoreInv (run small .streaming []) ∧
    0x0A ≤ (0x0A : Byte).toNat ∧ 0x0A ≤ (0xFF : Byte).toNat :=
  ⟨failed_inv [], run_inv _ rfl _ [], by decide, by decide⟩

/-- The last pixel and the last place. -/
theorem witness_PixelLayoutIsABijection :
    small.Legal ∧ 15 < small.width ∧ 7 < small.height ∧ 15 < small.width * (small.height / 8) ∧ 7 < 8 := by
  decide

theorem witness_MemWriteSetsDirtyOnChange :
    tall.Legal ∧ (Canvas.mk [(15, 0x80)] 0x00).fb.wf ∧ 31 < tall.fbSize := by decide

/-- In bounds at the corners, out of bounds one beyond. -/
theorem witness_PlotChangesOneLane :
    tall.Legal ∧ (Canvas.mk [(15, 0x80)] 0x00).fb.wf ∧ inBounds tall 0 0 ∧ inBounds tall 15 15 ∧
    ¬ inBounds tall (-1) 0 ∧ ¬ inBounds tall 16 0 ∧ ¬ inBounds tall 0 16 := by decide

theorem witness_PlotOrderIsNotObservable :
    tall.Legal ∧ (Canvas.mk [(15, 0x80)] 0x00).fb.wf ∧
    ∀ pt : Int × Int, pt ∈ [((0 : Int), (0 : Int)), (1, 0)] ↔ pt ∈ [((1 : Int), (0 : Int)), (0, 0), (1, 0)] := by
  refine ⟨tall_legal, by decide, fun pt => ?_⟩
  simp only [List.mem_cons, List.not_mem_nil, or_false]
  tauto

theorem witness_SecondIssueOfADrawingChangesNothing :
    CoreInv (run small .opening []) ∧ (run small .opening []).ctl.fbValid = true ∧
    isDrawing (.drawCircle 3 3 2 false) = true := ⟨run_inv _ rfl _ [], rfl, rfl⟩

/-- The hypotheses of the statements about one drawing command or READ_BYTE: a state with a framebuffer that
meets the invariant, and a state without one. -/
theorem witness_drawing_statements :
    (CoreInv (run small .opening []) ∧ (run small .opening []).ctl.fbValid = true) ∧
    failed.ctl.fbValid = false ∧ (closed []).ctl.fbValid = false := ⟨⟨run_inv _ rfl _ [], rfl⟩, rfl, rfl⟩

theorem witness_ClearDarkensEveryPixel :
    CoreInv (run small .opening []) ∧ (run small .opening []).ctl.fbValid = true ∧
    failed.ctl.fbValid = false := ⟨run_inv _ rfl _ [], rfl, rfl⟩
theorem witness_SetPixelChangesOnePixel :
    CoreInv (run small .initialized []) ∧ (run small .initialized []).ctl.fbValid = true ∧
    failed.ctl.fbValid = false := ⟨run_inv _ rfl _ [], rfl, rfl⟩
theorem witness_FillRectFillsTheRectangle :
    CoreInv (run small .streaming []) ∧ (run small .streaming []).ctl.fbValid = true ∧
    failed.ctl.fbValid = false := ⟨run_inv _ rfl _ [], rfl, rfl⟩
theorem witness_DrawLinePlotsTheBresenhamLoop :
    CoreInv (run small .streaming []) ∧ (run small .streaming []).ctl.fbValid = true ∧
    (closed []).ctl.fbValid = false := ⟨run_inv _ rfl _ [], rfl, rfl⟩
theorem witness_DrawCircleFillsTheDisc :
    CoreInv (run small .streaming []) ∧ (run small .streaming []).ctl.fbValid = true ∧
    (closed []).ctl.fbValid = false := ⟨run_inv _ rfl _ [], rfl, rfl⟩

/-- L6's line. -/
theorem witness_LineVisitsEachPointOnce :
    LineRun |(2 : Int) - 0| |(1 : Int) - 0| (if (0 : Int) < 2 then 1 else -1) (if (0 : Int) < 1 then 1 else -1)
      2 1 (|(2 : Int) - 0| - |(1 : Int) - 0|) 0 0 [(0, 0), (1, 0), (2, 1)] := by
  have e1 : |(2 : Int) - 0| = 2 := by decide
  have e2 : |(1 : Int) - 0| = 1 := by decide
  rw [e1, e2]
  refine .advance (e2 := 2) (errA := 0) (errB := 0) (xA := 1) (yB := 0) (by decide) rfl
    (by decide) (by decide) ?_
  refine .advance (e2 := 0) (errA := -1) (errB := 1) (xA := 2) (yB := 1) (by decide) rfl
    (by decide) (by decide) ?_
  exact .atEnd 1

/-- Five and six columns, and a packet that decodes. -/
theorem witness_DrawGlyphBlitsTheSetBits :
    CoreInv (run small .streaming []) ∧ (run small .streaming []).ctl.fbValid = true ∧
    failed.ctl.fbValid = false ∧ (List.replicate 5 (0x11 : Byte)).length = 5 ∧
    (List.replicate 6 (0x11 : Byte)).length = 6 ∧
    ∃ i, decode (0x15 :: (bytesOf 0 ++ bytesOf (-1) ++ [0x01, 0x05] ++ [1, 2, 3, 4, 5])) = .ok i :=
  ⟨run_inv _ rfl _ [], rfl, rfl, rfl, rfl, _, rfl⟩

/-- The longest and the empty string, and packets that decode. -/
theorem witness_DrawTextLightsTheScaledGlyphs :
    CoreInv (run small .streaming []) ∧ (run small .streaming []).ctl.fbValid = true ∧
    failed.ctl.fbValid = false ∧ (0x01 : Byte) ≠ 0x00 ∧ (List.replicate 255 (0x41 : Byte)).length ≤ 255 ∧
    (∃ i, decode (0x16 :: (bytesOf 0 ++ bytesOf (-1) ++ [0xFF, 0x00] ++ [])) = .ok i) ∧
    ∃ i, decode (0x16 :: (bytesOf 0 ++ bytesOf (-1) ++ [0x01, 0x02] ++ [0x41, 0x42])) = .ok i :=
  ⟨run_inv _ rfl _ [], rfl, rfl, by decide,
   List.length_replicate.le, ⟨_, rfl⟩, _, rfl⟩

theorem witness_TextBlocksNeverOverlap : 1 ≤ 1 ∧ (charPoints small 0 0 1 0x41).length = 18 := by
  decide +kernel

/-- The last index and the first one beyond it. -/
theorem witness_ReadByteReturnsTheByte :
    ((run small .opening []).ctl.fbValid = true ∧
      (15 : Half).toNat < (run small .opening []).cfg.width * ((run small .opening []).cfg.height / 8)) ∧
    (run small .opening []).cfg.width * ((run small .opening []).cfg.height / 8) ≤ (16 : Half).toNat ∧
    failed.ctl.fbValid = false := by decide

/-- The corner (15, 7). -/
theorem witness_SetPixelThenReadByteReturnsTheBit :
    CoreInv (run small .opening []) ∧ (run small .opening []).ctl.fbValid = true ∧
    0 ≤ (15 : Half).toInt ∧ (15 : Half).toInt < (run small .opening []).cfg.width ∧
    0 ≤ (7 : Half).toInt ∧ (7 : Half).toInt < (run small .opening []).cfg.height :=
  ⟨run_inv _ rfl _ [], rfl, by decide, by decide, by decide, by decide⟩

end Sys2Proof.Tests
end

section
/-! PROOFS. What a packet can do, said once: the command it names, the response it returns and the state it
leaves, case by case. -/

namespace Sys2Proof

/-! ## The opcode of a command -/

/-- The row of R72's map a command belongs to. -/
def Instr.opcode : Instr → Opcode
  | .cmdOpen => .cmdOpen
  | .cmdInit => .cmdInit
  | .cmdFlush => .cmdFlush
  | .cmdClose => .cmdClose
  | .clear => .clear
  | .setPixel _ _ _ => .setPixel
  | .fillRect _ _ _ _ _ => .fillRect
  | .drawLine _ _ _ _ _ => .drawLine
  | .drawCircle _ _ _ _ => .drawCircle
  | .drawGlyph _ _ _ _ => .drawGlyph
  | .drawText _ _ _ _ => .drawText
  | .readByte _ => .readByte
  | .readReg _ => .readReg

/-- A command read with the field on is built from some value of that field. -/
theorem map_decodeOn_ok {b : Byte} {f : Bool → Instr} {i : Instr}
    (h : (decodeOn b).map f = .ok i) : ∃ on, i = f on := by
  cases hon : decodeOn b with
  | error e => simp [hon, Except.map] at h
  | ok on => exact ⟨on, by simpa [hon, Except.map] using h.symm⟩

/-- The fields of a packet are read into a command of the packet's opcode. -/
theorem opcode_of_decodeFields {o : Opcode} {p : List Byte} {i : Instr}
    (h : decodeFields o p = .ok i) : i.opcode = o := by
  cases o with
  | cmdOpen | cmdInit | cmdFlush | cmdClose | clear | readByte | readReg => cases h; rfl
  | setPixel | fillRect | drawLine | drawCircle =>
    obtain ⟨on, rfl⟩ := map_decodeOn_ok h
    rfl
  | drawGlyph =>
    simp only [decodeFields] at h
    split at h
    · obtain ⟨on, rfl⟩ := map_decodeOn_ok h
      rfl
    · cases h
  | drawText =>
    simp only [decodeFields] at h
    split at h
    · cases h
    · cases h; rfl

/-- A packet that decodes begins with the opcode of its command. -/
theorem head_of_decode {p : List Byte} {i : Instr} (h : decode p = .ok i) :
    p.head? = some i.opcode.code := by
  cases p with
  | nil => cases h
  | cons b rest =>
    simp only [decode] at h
    split at h
    · cases h
    next o ho =>
      have hf : decodeFields o (b :: rest) = .ok i := by
        split at h
        · cases h
        · split at h
          · cases h
          · exact h
      rw [opcode_of_decodeFields hf, code_of_ofByte ho]
      rfl

/-- 0x21 is the opcode byte of READ_REG and of no other command (R72). -/
theorem opcodeByte_eq_readReg_iff (o : Opcode) : o.code = 0x21 ↔ o = .readReg := by
  cases o <;> decide

end Sys2Proof

namespace Sys2Proof.Machine

open Sys2Proof.Safety Sys2Proof.Claims

/-! ## Frames: what a command that sends them has changed -/

/-- From `s` to `u` only frames were sent: the Transport's answers and log have moved on, and the flags of
the pages sent are cleared. -/
def OnlySends (s u : State) : Prop :=
  u = { s with answers := u.answers, draws := u.draws, transport := u.transport, dirty := u.dirty }

namespace OnlySends

theorem refl (s : State) : OnlySends s s := rfl

theorem trans {s u v : State} (h : OnlySends s u) (h' : OnlySends u v) : OnlySends s v := by
  rw [OnlySends] at h h'
  rw [OnlySends, h', h]

variable {s u : State} (h : OnlySends s u)
include h

theorem eq_update :
    u = { s with answers := u.answers, draws := u.draws, transport := u.transport, dirty := u.dirty } := h

theorem fatalCause_eq : u.fatalCause = s.fatalCause := by rw [h.eq_update]
theorem transportHeld_eq : u.transportHeld = s.transportHeld := by rw [h.eq_update]
theorem hostOut_eq : u.hostOut = s.hostOut := by rw [h.eq_update]

end OnlySends

/-- A command that began at `s` has so far only sent frames; if it has ended, it did so by a frame answered
false (R171). -/
def Progress.SendsFrom (s : State) : Progress → Prop
  | .running u => OnlySends s u
  | .ended u => ∃ v, OnlySends s v ∧ u = enterFailed .transmissionFailure v

theorem emit_sendsFrom (f : List Byte) (s : State) : (emit f s).SendsFrom s := by
  rcases emit_cases f s with ⟨_, he⟩ | ⟨_, he⟩ <;> rw [he]
  · rfl
  · exact ⟨afterRequest (.frame f false) s, rfl, rfl⟩

theorem andThen_sendsFrom {s : State} {p : Progress} {k : State → Progress} (hp : p.SendsFrom s)
    (hk : ∀ u, (k u).SendsFrom u) : (p.andThen k).SendsFrom s := by
  cases p with
  | ended u => exact hp
  | running u =>
    have hu := hk u
    rw [andThen_running]
    cases hku : k u with
    | running w =>
      rw [hku] at hu
      exact OnlySends.trans hp hu
    | ended w =>
      rw [hku] at hu
      obtain ⟨v, hv, rfl⟩ := hu
      exact ⟨v, OnlySends.trans hp hv, rfl⟩

theorem emitCmds_sendsFrom (bs : List Byte) (s : State) : (emitCmds bs s).SendsFrom s := by
  induction bs generalizing s with
  | nil => exact OnlySends.refl s
  | cons b bs ih => exact andThen_sendsFrom (emit_sendsFrom _ s) ih

theorem sendPage_sendsFrom (p : Nat) (s : State) : (sendPage p s).SendsFrom s :=
  andThen_sendsFrom (emitCmds_sendsFrom _ s) fun u =>
    andThen_sendsFrom (emit_sendsFrom _ u) fun _ => rfl

theorem flushPages_sendsFrom (ps : List Nat) (s : State) : (flushPages ps s).SendsFrom s := by
  induction ps generalizing s with
  | nil => exact OnlySends.refl s
  | cons p ps ih =>
    rw [flushPages]
    split
    · exact andThen_sendsFrom (sendPage_sendsFrom p s) ih
    · exact ih s

/-! ## What a command answers -/

/-- The row of R222's table a command belongs to. -/
def commandClass : Instr → CommandClass
  | .cmdOpen => .cmdOpen
  | .cmdInit => .cmdInit
  | .cmdFlush => .cmdFlush
  | .cmdClose => .cmdClose
  | .readReg _ => .readReg
  | _ => .framebuffer

theorem legalFor_eq_legalIn (i : Instr) (c : ControllerState) :
    legalFor i c = legalIn (commandClass i) c := by
  cases i <;> cases c <;> rfl

theorem guarded_cases {cls : CommandClass} {body : State → State} {s t : State}
    (h : guarded cls body s = .next t) :
    (legalIn cls s.ctl = false ∧ t = raise .stateError s) ∨
    (legalIn cls s.ctl = true ∧ t = body s) := by
  cases hl : legalIn cls s.ctl
  · rw [guarded_illegal hl] at h; cases h; exact .inl ⟨rfl, rfl⟩
  · rw [guarded_legal hl] at h; cases h; exact .inr ⟨rfl, rfl⟩

/-- Everything a command can do: `Answers s i r t` when command `i`, issued at `s`, returns the response `r`
and leaves `t`. -/
inductive Answers (s : State) : Instr → Response → State → Prop
  /-- The state check fails (R222). -/
  | stateError {i : Instr} (hl : legalFor i s.ctl = false) :
      Answers s i ⟨0x11, 0x00⟩ (raise .stateError s)
  /-- OPEN, its ACQUIRE answered true (R180). -/
  | opened (hc : s.ctl = .closed) (ha : nextAnswer s = true) :
      Answers s .cmdOpen ⟨0x00, 0x00⟩ (openGranted (afterRequest (.acquire true) s))
  /-- OPEN, its ACQUIRE answered false (R180). -/
  | acquireFailed (hc : s.ctl = .closed) (ha : nextAnswer s = false) :
      Answers s .cmdOpen ⟨0x01, 0x00⟩
        (enterFailed .resourceUnavailable (afterRequest (.acquire false) s))
  /-- INIT, every frame acknowledged (R182). -/
  | initDone {u : State} (hc : s.ctl = .opening) (hu : emitCmds initSeq s = .running u)
      (hs : OnlySends s u) :
      Answers s .cmdInit ⟨0x00, 0x00⟩ (finish .ok 0x00 { u with ctl := .initialized })
  /-- INIT, cut off by a frame answered false (R171, R182). -/
  | initFailed {v : State} (hc : s.ctl = .opening)
      (hu : emitCmds initSeq s = .ended (enterFailed .transmissionFailure v)) (hs : OnlySends s v) :
      Answers s .cmdInit ⟨0x02, 0x00⟩ (enterFailed .transmissionFailure v)
  /-- FLUSH, every frame acknowledged (R185). -/
  | flushDone {u : State} (hc : s.ctl = .initialized ∨ s.ctl = .streaming)
      (hu : flushPages (List.range s.cfg.pages) s = .running u) (hs : OnlySends s u) :
      Answers s .cmdFlush ⟨0x00, 0x00⟩ (finish .ok 0x00 { u with ctl := .streaming })
  /-- FLUSH, cut off by a frame answered false (R171, R185). -/
  | flushFailed {v : State} (hc : s.ctl = .initialized ∨ s.ctl = .streaming)
      (hu : flushPages (List.range s.cfg.pages) s = .ended (enterFailed .transmissionFailure v))
      (hs : OnlySends s v) :
      Answers s .cmdFlush ⟨0x02, 0x00⟩ (enterFailed .transmissionFailure v)
  /-- CLOSE, which releases the Transport if it is held (R190). -/
  | closed :
      Answers s .cmdClose ⟨0x00, 0x00⟩ (finish .ok 0x00 { s with
        transportHeld := false
        transport := if s.transportHeld then s.transport ++ [.release] else s.transport
        dirty := 0x00
        ctl := .closed
        fb := Memory.unspecified s.cfg s.draws
        draws := s.draws + 1 })
  /-- A drawing command, with the framebuffer and flags it leaves (R137). -/
  | drawn {i : Instr} (hi : isDrawing i = true) (hf : s.ctl.fbValid = true) (c : Canvas) :
      Answers s i ⟨0x00, 0x00⟩ (finish .ok 0x00 (s.withCanvas c))
  /-- READ_BYTE of a byte of FB (R106). -/
  | byteRead {index : Half} (hf : s.ctl.fbValid = true) (hi : index.toNat < s.cfg.fbSize) :
      Answers s (.readByte index) ⟨0x00, s.fb.read index.toNat⟩
        (finish .ok (s.fb.read index.toNat) s)
  /-- READ_BYTE beyond FB (R106). -/
  | byteOutOfRange {index : Half} (hf : s.ctl.fbValid = true) (hi : s.cfg.fbSize ≤ index.toNat) :
      Answers s (.readByte index) ⟨0x12, 0x00⟩ (raise .rangeError s)
  /-- READ_REG of a register of R29's map (R195). -/
  | regRead {reg v : Byte} (hv : regVal s reg = some v) :
      Answers s (.readReg reg) ⟨0x00, v⟩ (respond .ok v s)
  /-- READ_REG outside R29's map (R195). -/
  | regOutOfRange {reg : Byte} (hv : regVal s reg = none) :
      Answers s (.readReg reg) ⟨0x12, 0x00⟩ (respond .rangeError 0x00 s)

theorem execClose_eq (s : State) : execClose s = .next (finish .ok 0x00 { s with
    transportHeld := false
    transport := if s.transportHeld then s.transport ++ [.release] else s.transport
    dirty := 0x00
    ctl := .closed
    fb := Memory.unspecified s.cfg s.draws
    draws := s.draws + 1 }) := by
  rw [execClose, guarded_legal rfl]
  cases hh : s.transportHeld <;> simp [releaseRequest, hh]

/-- A command that has only sent frames is still running, or a frame answered false has ended it. -/
theorem Progress.SendsFrom.cases {p : Progress} {s : State} (hp : p.SendsFrom s) :
    (∃ u, p = .running u ∧ OnlySends s u) ∨
    (∃ v, p = .ended (enterFailed .transmissionFailure v) ∧ OnlySends s v) := by
  cases p with
  | running u => exact .inl ⟨u, rfl, hp⟩
  | ended u =>
    obtain ⟨v, hv, rfl⟩ := hp
    exact .inr ⟨v, rfl, hv⟩

/-- Behind the state check a command answers STATE_ERROR, or what its body answers where it is legal. -/
theorem answers_of_guarded {s t : State} {i : Instr} {body : State → State}
    (hbody : legalIn (commandClass i) s.ctl = true → ∃ r, Answers s i r (body s))
    (h : guarded (commandClass i) body s = .next t) : ∃ r, Answers s i r t := by
  rcases guarded_cases h with ⟨hl, rfl⟩ | ⟨hl, rfl⟩
  · exact ⟨_, .stateError (by rw [legalFor_eq_legalIn, hl])⟩
  · exact hbody hl

/-- A drawing command's body is one canvas put in place and status OK. -/
theorem answers_of_drawing {s t : State} {i : Instr} {canvas : State → Canvas}
    (hi : isDrawing i = true) (hcls : commandClass i = .framebuffer)
    (h : guarded .framebuffer (fun s => finish .ok 0x00 (s.withCanvas (canvas s))) s = .next t) :
    ∃ r, Answers s i r t := by
  rw [← hcls] at h
  exact answers_of_guarded (fun hl => ⟨_, .drawn hi (by rwa [hcls] at hl) _⟩) h

theorem legalIn_cmdOpen {c : ControllerState} (h : legalIn .cmdOpen c = true) : c = .closed := by
  cases c with
  | closed => rfl
  | opening | initialized | streaming | failed => cases h

theorem legalIn_cmdInit {c : ControllerState} (h : legalIn .cmdInit c = true) : c = .opening := by
  cases c with
  | opening => rfl
  | closed | initialized | streaming | failed => cases h

theorem legalIn_cmdFlush {c : ControllerState} (h : legalIn .cmdFlush c = true) :
    c = .initialized ∨ c = .streaming := by
  cases c with
  | initialized => exact .inl rfl
  | streaming => exact .inr rfl
  | closed | opening | failed => cases h

/-- Inversion of `exec`: a command that leaves `t` answers one of the ways of `Answers`. -/
theorem answers_of_exec {i : Instr} {s t : State} (h : exec i s = .next t) :
    ∃ r, Answers s i r t := by
  cases i with
  | cmdOpen =>
    rw [exec, execOpen] at h
    refine answers_of_guarded (i := .cmdOpen) (fun hl => ?_) h
    have hc := legalIn_cmdOpen hl
    cases ha : nextAnswer s
    · exact ⟨_, .acquireFailed hc ha⟩
    · exact ⟨_, .opened hc ha⟩
  | cmdInit =>
    rw [exec, execInit] at h
    refine answers_of_guarded (i := .cmdInit) (fun hl => ?_) h
    have hc := legalIn_cmdInit hl
    rcases (emitCmds_sendsFrom initSeq s).cases with ⟨u, hu, hs⟩ | ⟨v, hv, hs⟩
    · simpa only [hu, complete_running] using ⟨_, .initDone hc hu hs⟩
    · simpa only [hv, complete_ended] using ⟨_, .initFailed hc hv hs⟩
  | cmdFlush =>
    rw [exec, execFlush] at h
    refine answers_of_guarded (i := .cmdFlush) (fun hl => ?_) h
    have hc := legalIn_cmdFlush hl
    rcases (flushPages_sendsFrom (List.range s.cfg.pages) s).cases with ⟨u, hu, hs⟩ | ⟨v, hv, hs⟩
    · simpa only [hu, complete_running] using ⟨_, .flushDone hc hu hs⟩
    · simpa only [hv, complete_ended] using ⟨_, .flushFailed hc hv hs⟩
  | cmdClose =>
    rw [exec, execClose_eq] at h
    cases h
    exact ⟨_, .closed⟩
  | clear | setPixel | fillRect | drawLine | drawCircle | drawGlyph | drawText =>
    simp only [exec, execClear, execSetPixel, execFillRect, execDrawLine, execDrawCircle,
      execDrawGlyph, execDrawText] at h
    exact answers_of_drawing rfl rfl h
  | readByte index =>
    rw [exec, execReadByte] at h
    refine answers_of_guarded (i := .readByte index) (fun hl => ?_) h
    split
    next hi => exact ⟨_, .byteOutOfRange hl hi⟩
    next hi => exact ⟨_, .byteRead hl (Nat.lt_of_not_ge hi)⟩
  | readReg reg =>
    rw [exec, execReadReg] at h
    refine answers_of_guarded (i := .readReg reg) (fun _ => ?_) h
    cases hv : regVal s reg with
    | some v => exact ⟨_, .regRead hv⟩
    | none => exact ⟨_, .regOutOfRange hv⟩

/-- The response a command answers is the one it puts on the host port (R78). -/
theorem Answers.hostOut_eq {s t : State} {i : Instr} {r : Response} (h : Answers s i r t) :
    t.hostOut = s.hostOut ++ [r] := by
  cases h with
  | initDone _ _ hs | initFailed _ _ hs | flushDone _ _ hs | flushFailed _ _ hs =>
    simp [hs.hostOut_eq, Status.code]
  | stateError | opened | acquireFailed | closed | drawn | byteRead | byteOutOfRange | regRead
  | regOutOfRange => rfl

/-- An illegal packet changes LAST_STATUS, unless its opcode is 0x21, and the host port (R223). -/
theorem illegalPacket_eq (p : List Byte) (s : State) :
    illegalPacket p s = { s with
      lastStatus := if p.head? = some 0x21 then s.lastStatus else 0x10
      hostOut := s.hostOut ++ [⟨0x10, 0x00⟩] } := by
  by_cases h : p.head? = some 0x21
  · rw [if_pos h]; exact if_pos h
  · rw [if_neg h]; exact if_neg h

/-- What a packet that returns `r` does: it is illegal, or the command it names answers `r`. -/
theorem packet_cases {s t : State} {p : List Byte} {rest : List HostInput} {r : Response}
    (htake : Takes s p rest) (hstep : step s = .next t) (hout : t.hostOut = s.hostOut ++ [r]) :
    (∃ e, decode p = .error e ∧ r = ⟨0x10, 0x00⟩ ∧ t = illegalPacket p { s with hostIn := rest }) ∨
    ∃ i, decode p = .ok i ∧ Answers { s with hostIn := rest } i r t := by
  rw [step_packet htake.1 htake.2] at hstep
  cases hd : decode p with
  | error e =>
    rw [hd] at hstep
    cases hstep
    rw [illegalPacket_eq] at hout
    exact .inl ⟨e, rfl, by simpa using hout.symm, rfl⟩
  | ok i =>
    rw [hd] at hstep
    obtain ⟨r', hr'⟩ := answers_of_exec hstep
    obtain rfl : r' = r := by simpa [hr'.hostOut_eq] using hout
    exact .inr ⟨i, rfl, hr'⟩

/-! ## The three registers of a packet's outcome -/

/-- Every command but READ_REG records its status (R26). -/
theorem Answers.lastStatus_eq {s t : State} {i : Instr} {r : Response} (h : Answers s i r t) :
    t.lastStatus = if i.opcode = .readReg then s.lastStatus else r.status := by
  cases h with
  | stateError hl =>
    cases i with
    | readReg => cases hl
    | _ => rfl
  | drawn hi =>
    cases i with
    | readReg => cases hi
    | _ => rfl
  | opened | acquireFailed | initDone | initFailed | flushDone | flushFailed | closed | byteRead
  | byteOutOfRange | regRead | regOutOfRange => rfl

/-- FATAL_CAUSE takes the code of a fatal error and 0x00 at a successful OPEN (R27). -/
theorem Answers.fatalCause_eq {s t : State} {i : Instr} {r : Response} (h : Answers s i r t) :
    t.fatalCause =
      if r.status = 0x01 ∨ r.status = 0x02 then r.status
      else if i = .cmdOpen ∧ r.status = 0x00 then 0x00
      else s.fatalCause := by
  cases h with
  | initDone _ _ hs | flushDone _ _ hs => simp [hs.fatalCause_eq]
  | drawn hi =>
    have hne : i ≠ .cmdOpen := by rintro rfl; cases hi
    simp [hne]
  | stateError | opened | acquireFailed | initFailed | flushFailed | closed | byteRead
  | byteOutOfRange | regRead | regOutOfRange => simp [Status.code]

/-- TRANSPORT_HELD is 1 after a successful OPEN, 0 after CLOSE and as it was after the rest (R23). -/
theorem Answers.transportHeld_eq {s t : State} {i : Instr} {r : Response} (h : Answers s i r t) :
    t.transportHeld =
      if i = .cmdOpen ∧ r.status = 0x00 then true
      else if i = .cmdClose then false
      else s.transportHeld := by
  cases h with
  | stateError hl =>
    have hne : i ≠ .cmdClose := by rintro rfl; cases hl
    simp [hne]
  | initDone _ _ hs | initFailed _ _ hs | flushDone _ _ hs | flushFailed _ _ hs =>
    simp [hs.transportHeld_eq]
  | drawn hi =>
    have hopen : i ≠ .cmdOpen := by rintro rfl; cases hi
    have hclose : i ≠ .cmdClose := by rintro rfl; cases hi
    simp [hopen, hclose]
  | opened | acquireFailed | closed | byteRead | byteOutOfRange | regRead | regOutOfRange => simp

/-- Settles O17: an illegal packet by R223, a command by its opcode. -/
theorem lastStatusIsThatOfTheLastOtherPacket :
    Obligations.LastStatusIsThatOfTheLastOtherPacket := by
  intro s t p rest r htake hstep hout
  rcases packet_cases htake hstep hout with ⟨e, _, rfl, rfl⟩ | ⟨i, hd, ha⟩
  · rw [illegalPacket_eq]
  · rw [ha.lastStatus_eq, head_of_decode hd]
    simp only [Option.some.injEq, opcodeByte_eq_readReg_iff]

/-- Settles O18: the values of R27 are kept because only 0x00 and the two fatal codes are written. -/
theorem fatalCauseIsWrittenByFailureAndOpenOnly :
    Obligations.FatalCauseIsWrittenByFailureAndOpenOnly := by
  intro s t p rest r hinv htake hstep hout
  have hcause : t.fatalCause =
      if r.status = 0x01 ∨ r.status = 0x02 then r.status
      else if decode p = .ok .cmdOpen ∧ r.status = 0x00 then 0x00
      else s.fatalCause := by
    rcases packet_cases htake hstep hout with ⟨e, hd, rfl, rfl⟩ | ⟨i, hd, ha⟩
    · simp [illegalPacket_eq, hd]
    · simpa [hd] using ha.fatalCause_eq
  refine ⟨?_, hcause⟩
  rw [hcause]
  split
  next hr => rcases hr with hr | hr <;> simp [hr, fatalCauses]
  · split
    · simp [fatalCauses]
    · exact hinv.causeLegal

/-- Settles O19: an illegal packet leaves TRANSPORT_HELD, a command writes it as R23 says. -/
theorem transportIsHeldFromOpenToClose : Obligations.TransportIsHeldFromOpenToClose := by
  intro s t p rest r _ htake hstep hout
  rcases packet_cases htake hstep hout with ⟨e, hd, rfl, rfl⟩ | ⟨i, hd, ha⟩
  · simp [illegalPacket_eq, hd]
  · simpa [hd] using ha.transportHeld_eq

end Sys2Proof.Machine
end


section
/-! PROOFS. The layout of FB (20_memory.md R50, R51) as a bijection: the row of each place, and the pixel
there. -/

namespace Sys2Proof.Machine

/-- The row that bit b of byte a shows: row b of the byte's page (R51). -/
def placeRow (c : Config) (a b : Nat) : Nat := 8 * (a / c.width) + b

theorem placeRow_page (c : Config) (a : Nat) {b : Nat} (hb : b < 8) :
    placeRow c a b / 8 = a / c.width := by
  unfold placeRow
  omega

theorem pixelBit_placeRow (c : Config) (a : Nat) {b : Nat} (hb : b < 8) :
    pixelBit (placeRow c a b) = b := by
  unfold pixelBit placeRow
  omega

theorem pixelIndex_placeRow (c : Config) (a : Nat) {b : Nat} (hb : b < 8) :
    pixelIndex c (a % c.width) (placeRow c a b) = a := by
  rw [pixelIndex, placeRow_page c a hb, Nat.mod_add_div']

/-- The rows of the places of FB are the rows of the panel. -/
theorem placeRow_lt {c : Config} (h : c.Legal) {a b : Nat} (ha : a < c.fbSize) (hb : b < 8) :
    placeRow c a b < c.height := by
  have hpage : a / c.width < c.pages := Nat.div_lt_of_lt_mul ha
  have hheight := eight_pages h
  unfold placeRow
  omega

/-- A pixel is the column and the row of its own place. -/
theorem placeRow_pixel {c : Config} {x : Nat} (hx : x < c.width) (y : Nat) :
    placeRow c (pixelIndex c x y) (pixelBit y) = y := by
  rw [placeRow, pixelIndex_div hx, pixelBit, Nat.div_add_mod]

/-- Settles O35: place (a, b) is that of pixel (a % WIDTH, placeRow a b), and a pixel is recovered from its
place by the same two functions. -/
theorem pixelLayoutIsABijection : Obligations.PixelLayoutIsABijection := by
  intro c hc
  refine ⟨fun x y hx hy => ⟨rfl, rfl, pixelIndex_lt hc hx hy, Nat.mod_lt y (by decide), fun _ => rfl⟩,
    fun a b ha hb => ⟨a % c.width, placeRow c a b, ?hasPixel, ?onlyOne⟩⟩
  case hasPixel =>
    exact ⟨Nat.mod_lt a hc.1, placeRow_lt hc ha hb, pixelIndex_placeRow c a hb, pixelBit_placeRow c a hb⟩
  case onlyOne =>
    rintro x y hx - rfl rfl
    exact ⟨(pixelIndex_mod hx).symm, (placeRow_pixel hx y).symm⟩

end Sys2Proof.Machine
end


section
/-! PROOFS. Packets that are illegal by their opcode or length (30_encoding.md R75, R76), the response of every
packet (R78), and the frames of the transport port (R83, R86). -/

namespace Sys2Proof

open Sys2Proof.Claims

/-! ## Reserved opcodes -/

/-- No byte of R72's map is among the reserved values of R76. -/
theorem not_reservedOpcode_code (o : Opcode) : ¬ ReservedOpcode o.code := by
  unfold ReservedOpcode
  cases o <;> decide

/-- Below 0x22, where R76's last range begins, R76's other ranges and R72's map cover every value. -/
theorem opcode_values_covered : ∀ n < 0x22,
    n = 0x00 ∨ (0x05 ≤ n ∧ n ≤ 0x0F) ∨ (0x17 ≤ n ∧ n ≤ 0x1F) ∨
      ∃ o ∈ Opcode.all, o.code.toNat = n := by decide

/-- A byte that R76 does not reserve is a byte of R72's map. -/
theorem code_of_not_reservedOpcode {b : Byte} (h : ¬ ReservedOpcode b) : ∃ o : Opcode, o.code = b := by
  simp only [ReservedOpcode, not_or] at h
  obtain ⟨hzero, hlow, hmid, hhigh⟩ := h
  rcases opcode_values_covered b.toNat (Nat.lt_of_not_le hhigh) with h | h | h | ⟨o, _, ho⟩
  · exact absurd h hzero
  · exact absurd h hlow
  · exact absurd h hmid
  · exact ⟨o, BitVec.eq_of_toNat_eq ho⟩

/-- Each opcode begins a packet that decodes. -/
theorem exists_decode_code (o : Opcode) : ∃ tail i, decode (o.code :: tail) = .ok i := by
  cases o with
  | cmdOpen | cmdInit | cmdFlush | cmdClose | clear => exact ⟨[], _, rfl⟩
  | setPixel => exact ⟨List.replicate 5 0x00, _, rfl⟩
  | fillRect | drawLine => exact ⟨List.replicate 9 0x00, _, rfl⟩
  | drawCircle => exact ⟨List.replicate 7 0x00, _, rfl⟩
  | drawGlyph => exact ⟨[0, 0, 0, 0, 0, 5] ++ List.replicate 5 0x00, _, rfl⟩
  | drawText => exact ⟨[0, 0, 0, 0, 1, 0], _, rfl⟩
  | readByte => exact ⟨[0, 0], _, rfl⟩
  | readReg => exact ⟨[0], _, rfl⟩

/-! ## The length of a packet -/

/-- Inversion of `decode`: the checks of R221 that a packet which decodes has passed. -/
theorem checks_of_decode {p : List Byte} {i : Instr} (h : decode p = .ok i) :
    ∃ o rest, p = o.code :: rest ∧ (o.hasCount = true → 7 ≤ p.length) ∧
      p.length = o.length (byteAt p 6) ∧ decodeFields o p = .ok i := by
  cases p with
  | nil => cases h
  | cons b rest =>
    simp only [decode] at h
    split at h
    · cases h
    next o ho =>
      split at h
      · cases h
      next hcount =>
        split at h
        · cases h
        next hlen =>
          exact ⟨o, rest, by rw [code_of_ofByte ho],
            fun hc => Nat.le_of_not_lt fun hlt => hcount ⟨hc, hlt⟩, not_not.mp hlen, h⟩

/-- The decoder's lengths are those of R73's table. -/
theorem packetLength_code (o : Opcode) (count : Byte) :
    packetLength o.code count = some (o.length count) := by
  cases o <;> rfl

/-- 0x15 and 0x16 are the opcode bytes of the packets with a count byte (R75). -/
theorem opcodeByte_eq_counted_iff (o : Opcode) :
    o.code = 0x15 ∨ o.code = 0x16 ↔ o.hasCount = true := by
  cases o <;> decide

/-- The length of a packet without a count byte depends on its opcode only. -/
theorem length_of_not_hasCount {o : Opcode} (h : ¬ o.hasCount = true) (c d : Byte) :
    o.length c = o.length d := by
  cases o with
  | drawGlyph | drawText => exact absurd rfl h
  | _ => rfl

/-- A packet that decodes has a length R75 allows. -/
theorem lengthAgrees_of_decode {p : List Byte} {i : Instr} (h : decode p = .ok i) :
    LengthAgrees p := by
  obtain ⟨o, rest, hp, hcount, hlen, _⟩ := checks_of_decode h
  refine ⟨o.code, rest, hp, ?_⟩
  simp only [opcodeByte_eq_counted_iff, packetLength_code, Option.some.injEq]
  split
  next hc =>
    have hsix : p[6]? = some (byteAt p 6) := by
      rw [byteAt, List.getD_eq_getElem?_getD, List.getElem?_eq_getElem (hcount hc), Option.getD_some]
    exact ⟨byteAt p 6, hsix, hlen.symm⟩
  next hc => rw [hlen, length_of_not_hasCount hc]

end Sys2Proof

namespace Sys2Proof.Machine

open Sys2Proof.Safety Sys2Proof.Claims

/-- A packet that does not decode is answered as R223 says. -/
theorem illegalCommand_of_not_decode {s : State} {p : List Byte} {rest : List HostInput}
    (htake : Takes s p rest) (h : ∀ i, decode p ≠ .ok i) : IllegalCommand s p rest := by
  rw [IllegalCommand, step_packet htake.1 htake.2]
  cases hd : decode p with
  | ok i => exact absurd hd (h i)
  | error e => exact congrArg Host.Outcome.next (illegalPacket_eq p _)

/-- Settles O4: what decodes begins with a byte of R72's map, and R76's ranges are the bytes outside it. -/
theorem reservedOpcodesAreIllegal : Obligations.ReservedOpcodesAreIllegal := by
  refine ⟨fun s b tail rest htake hres => illegalCommand_of_not_decode htake fun i hd => ?_,
    fun b hb => ?_⟩
  · obtain rfl : b = i.opcode.code := by simpa using head_of_decode hd
    exact not_reservedOpcode_code _ hres
  · obtain ⟨o, rfl⟩ := code_of_not_reservedOpcode hb
    exact exists_decode_code o

/-- Settles O5: what decodes has passed the decoder's length check, which is R75's. -/
theorem wrongLengthIsIllegal : Obligations.WrongLengthIsIllegal := fun _ _ _ htake hlen =>
  illegalCommand_of_not_decode htake fun _ hd => hlen (lengthAgrees_of_decode hd)

/-! ## One response for every packet -/

/-- Every packet appends one response (R78). -/
theorem packet_returns {s t : State} {p : List Byte} {rest : List HostInput} (htake : Takes s p rest)
    (hstep : step s = .next t) : ∃ r, t.hostOut = s.hostOut ++ [r] := by
  rw [step_packet htake.1 htake.2] at hstep
  cases hd : decode p with
  | error e =>
    rw [hd, illegalPacket_eq] at hstep
    cases hstep
    exact ⟨_, rfl⟩
  | ok i =>
    rw [hd] at hstep
    obtain ⟨r, hr⟩ := answers_of_exec hstep
    exact ⟨r, hr.hostOut_eq⟩

/-- Every status a command returns is a code of R220. -/
theorem Answers.status_mem {s t : State} {i : Instr} {r : Response} (h : Answers s i r t) :
    r.status ∈ statusCodes := by
  cases h <;> simp [statusCodes]

/-- A READ_BYTE that returns OK returns the byte read (R106). -/
theorem Answers.readByte_data {s t : State} {index : Half} {r : Response}
    (h : Answers s (.readByte index) r t) (hok : r.status = 0x00) :
    r.data = s.fb.read index.toNat := by
  cases h with
  | byteRead => rfl
  | drawn hi => cases hi
  | stateError | byteOutOfRange => exact absurd hok (by decide)

/-- A READ_REG that returns OK returns the register's value (R195). -/
theorem Answers.readReg_data {s t : State} {reg : Byte} {r : Response}
    (h : Answers s (.readReg reg) r t) (hok : r.status = 0x00) : regVal s reg = some r.data := by
  cases h with
  | regRead hv => exact hv
  | drawn hi => cases hi
  | stateError | regOutOfRange => exact absurd hok (by decide)

/-- Only a READ_BYTE or READ_REG that returns OK returns a data byte other than 0x00 (R78). -/
theorem Answers.read_of_data_ne_zero {s t : State} {i : Instr} {r : Response} (h : Answers s i r t)
    (hne : r.data ≠ 0x00) :
    r.status = 0x00 ∧ ((∃ index, i = .readByte index) ∨ ∃ reg, i = .readReg reg) := by
  cases h with
  | byteRead => exact ⟨rfl, .inl ⟨_, rfl⟩⟩
  | regRead => exact ⟨rfl, .inr ⟨_, rfl⟩⟩
  | stateError | opened | acquireFailed | initDone | initFailed | flushDone | flushFailed | closed
  | drawn | byteOutOfRange | regOutOfRange => exact absurd rfl hne

/-- Settles O16: an illegal packet returns [0x10, 0x00], a command one of the responses of `Answers`. -/
theorem everyPacketReturnsOneResponse : Obligations.EveryPacketReturnsOneResponse := by
  intro s t p rest htake hstep
  obtain ⟨r, hout⟩ := packet_returns htake hstep
  refine ⟨r, hout, ?_⟩
  rcases packet_cases htake hstep hout with ⟨e, hd, rfl, _⟩ | ⟨i, hd, ha⟩
  · simp [statusCodes, hd]
  · simp only [hd, Except.ok.injEq]
    refine ⟨ha.status_mem, ?_, ?_, ha.read_of_data_ne_zero⟩
    · rintro index rfl
      exact ha.readByte_data
    · rintro reg rfl
      exact ha.readReg_data

/-! ## The frames sent -/

/-- From `s` to `u` the build is kept and the transport log has grown at its end by requests whose frames
are all of the two kinds of R83 and R86. -/
def SendsLegalFrames (s u : State) : Prop :=
  u.cfg = s.cfg ∧ ∃ log, u.transport = s.transport ++ log ∧
    ∀ f ok, TransportEvent.frame f ok ∈ log → FrameLegal s.cfg f

namespace SendsLegalFrames

/-- Where neither the build nor the transport log has changed, nothing was sent. -/
theorem of_eq {s u : State} (hcfg : u.cfg = s.cfg) (hlog : u.transport = s.transport) :
    SendsLegalFrames s u := ⟨hcfg, [], by simp [hlog], by simp⟩

theorem trans {s u v : State} (h : SendsLegalFrames s u) (h' : SendsLegalFrames u v) :
    SendsLegalFrames s v := by
  obtain ⟨hcfg, log, hlog, hlegal⟩ := h
  obtain ⟨hcfg', log', hlog', hlegal'⟩ := h'
  rw [hcfg] at hlegal'
  refine ⟨hcfg'.trans hcfg, log ++ log', by rw [hlog', hlog, List.append_assoc], fun f ok hf => ?_⟩
  exact (List.mem_append.mp hf).elim (hlegal f ok) (hlegal' f ok)

/-- A request that is no frame sends none. -/
theorem request {s u : State} {e : TransportEvent} (he : ∀ f ok, e ≠ .frame f ok)
    (hcfg : u.cfg = s.cfg) (hlog : u.transport = s.transport ++ [e]) : SendsLegalFrames s u :=
  ⟨hcfg, [e], hlog, fun f ok hf => absurd (List.mem_singleton.mp hf).symm (he f ok)⟩

end SendsLegalFrames

/-- The core's ADDR_W is DEV_ADDR shifted left by one, as a number (R82). -/
theorem addrW_eq (c : Config) : addrW c = BitVec.ofNat 8 (2 * c.devAddr.toNat) := by
  apply BitVec.eq_of_toNat_eq
  simp [addrW, Nat.shiftLeft_eq, Nat.mul_comm]

theorem frameLegal_cmdFrame {c : Config} {b : Byte} (h : CommandByte c b) :
    FrameLegal c (cmdFrame c b) := .inl ⟨b, h, by rw [cmdFrame, addrW_eq]⟩

theorem frameLegal_dataFrame {c : Config} {d : List Byte} (h : d.length = c.width) :
    FrameLegal c (dataFrame c d) := .inr ⟨d, h, by rw [dataFrame, addrW_eq]; rfl⟩

theorem emit_sendsLegalFrames {f : List Byte} {s : State} (h : FrameLegal s.cfg f) :
    SendsLegalFrames s (emit f s).state := by
  have hone (ok : Bool) : SendsLegalFrames s (afterRequest (.frame f ok) s) :=
    ⟨rfl, [.frame f ok], rfl, by simpa using h⟩
  rcases emit_cases f s with ⟨_, he⟩ | ⟨_, he⟩ <;> rw [he]
  · exact hone true
  · exact hone false

/-- What follows in a command sends legal frames if it does so from every state the build is kept in. -/
theorem andThen_sendsLegalFrames {s : State} {p : Progress} {k : State → Progress}
    (hp : SendsLegalFrames s p.state)
    (hk : ∀ u : State, u.cfg = s.cfg → SendsLegalFrames u (k u).state) :
    SendsLegalFrames s (p.andThen k).state := by
  cases p with
  | ended u => exact hp
  | running u => exact hp.trans (hk u hp.1)

theorem emitCmds_sendsLegalFrames {bs : List Byte} {s : State} (h : ∀ b ∈ bs, CommandByte s.cfg b) :
    SendsLegalFrames s (emitCmds bs s).state := by
  induction bs generalizing s with
  | nil => exact .of_eq rfl rfl
  | cons b bs ih =>
    obtain ⟨hb, hbs⟩ := List.forall_mem_cons.mp h
    exact andThen_sendsLegalFrames (emit_sendsLegalFrames (frameLegal_cmdFrame hb))
      fun u hu => ih (hu ▸ hbs)

/-- The three command bytes of a page are among those of R86. -/
theorem commandByte_of_page {c : Config} {p : Nat} (hp : p < c.pages) :
    ∀ b ∈ [pageSelect p, columnLow, columnHigh], CommandByte c b := by
  simp only [List.forall_mem_cons, List.not_mem_nil, false_imp_iff, implies_true, and_true]
  exact ⟨.inr (.inl ⟨p, hp, rfl⟩), .inr (.inr (.inl rfl)), .inr (.inr (.inr rfl))⟩

theorem sendPage_sendsLegalFrames {p : Nat} {s : State} (hp : p < s.cfg.pages) :
    SendsLegalFrames s (sendPage p s).state :=
  andThen_sendsLegalFrames (emitCmds_sendsLegalFrames (commandByte_of_page hp)) fun u _ =>
    andThen_sendsLegalFrames
      (emit_sendsLegalFrames (frameLegal_dataFrame (by simp [pageBytes])))
      fun _ _ => .of_eq rfl rfl

theorem flushPages_sendsLegalFrames {ps : List Nat} {s : State} (h : ∀ p ∈ ps, p < s.cfg.pages) :
    SendsLegalFrames s (flushPages ps s).state := by
  induction ps generalizing s with
  | nil => exact .of_eq rfl rfl
  | cons p ps ih =>
    obtain ⟨hp, hps⟩ := List.forall_mem_cons.mp h
    rw [flushPages]
    split
    · exact andThen_sendsLegalFrames (sendPage_sendsLegalFrames hp) fun u hu => ih (hu ▸ hps)
    · exact ih hps

/-- Whatever a command answers, the frames it sent are legal. -/
theorem Answers.sendsLegalFrames {s t : State} {i : Instr} {r : Response} (h : Answers s i r t) :
    SendsLegalFrames s t := by
  cases h with
  | opened | acquireFailed => exact .request (by simp) rfl rfl
  | initDone _ hu | initFailed _ hu =>
    have hinit : SendsLegalFrames s (emitCmds initSeq s).state :=
      emitCmds_sendsLegalFrames fun _ hb => .inl hb
    rw [hu] at hinit
    exact hinit
  | flushDone _ hu | flushFailed _ hu =>
    have hflush : SendsLegalFrames s (flushPages (List.range s.cfg.pages) s).state :=
      flushPages_sendsLegalFrames fun _ hp => List.mem_range.mp hp
    rw [hu] at hflush
    exact hflush
  | closed =>
    cases hheld : s.transportHeld
    · exact .of_eq rfl (by simp)
    · exact .request (e := .release) (by simp) rfl (by simp)
  | stateError | drawn | byteRead | byteOutOfRange | regRead | regOutOfRange => exact .of_eq rfl rfl

/-- A step sends legal frames only: none while it waits, resets or refuses a packet. -/
theorem step_sendsLegalFrames {s t : State} (h : step s = .next t) : SendsLegalFrames s t := by
  obtain ⟨_, ⟨_, rfl⟩ | ⟨rest, _, rfl⟩ | ⟨p, rest, e, _, _, rfl⟩ | ⟨p, rest, i, _, _, hexec⟩⟩ :=
    step_cases h
  · exact .of_eq rfl rfl
  · exact .of_eq rfl rfl
  · rw [illegalPacket_eq]
    exact .of_eq rfl rfl
  · obtain ⟨_, ha⟩ := answers_of_exec hexec
    exact ha.sendsLegalFrames

/-- Settles O26: the frames of INIT and of each page of a FLUSH are legal, and no other command sends any. -/
theorem everyFrameSentIsOfTheTwoKinds : Obligations.EveryFrameSentIsOfTheTwoKinds :=
  fun _ _ hstep => (step_sendsLegalFrames hstep).2

end Sys2Proof.Machine
end

section
/-! PROOFS. The framebuffer commands (40_framebuffer.md R100 to R109): what writing a set of places of FB
does to FB and DIRTY, said once, and CLEAR, SET_PIXEL, FILL_RECT and READ_BYTE from it. -/

namespace Sys2Proof

open Sys2Proof.Claims

/-! ## Packet fields -/

/-- The statements' two bytes of a 16-bit field are the encoder's (R71). -/
theorem bytesOf_eq_halfBytes (h : Half) : bytesOf h = halfBytes h := by
  have hlow : BitVec.ofNat 8 h.toNat = h.extractLsb' 0 8 := by
    simp [BitVec.extractLsb', Nat.shiftRight_zero]
  have hhigh : BitVec.ofNat 8 (h.toNat / 256) = h.extractLsb' 8 8 := by
    simp [BitVec.extractLsb', Nat.shiftRight_eq_div_pow]
  rw [bytesOf, halfBytes, hlow, hhigh]

/-- A command whose last field is on decodes exactly for the two values of R77. -/
theorem map_decodeOn (b : Byte) (f : Bool → Instr) :
    (decodeOn b).map f =
      if b = 0x00 then .ok (f false) else if b = 0x01 then .ok (f true) else .error .reservedOn := by
  unfold decodeOn
  split
  · rfl
  · split <;> rfl

theorem decode_setPixel (x y : Half) (b : Byte) :
    decode (0x11 :: (halfBytes x ++ halfBytes y ++ [b])) =
      (decodeOn b).map fun on => .setPixel x y on := by
  calc decode (0x11 :: (halfBytes x ++ halfBytes y ++ [b]))
    _ = (decodeOn b).map fun on =>
          .setPixel (x.extractLsb' 8 8 ++ x.extractLsb' 0 8) (y.extractLsb' 8 8 ++ y.extractLsb' 0 8) on :=
        rfl
    _ = _ := by simp only [half_of_bytes]

theorem decode_fillRect (x y w h : Half) (b : Byte) :
    decode (0x12 :: (halfBytes x ++ halfBytes y ++ halfBytes w ++ halfBytes h ++ [b])) =
      (decodeOn b).map fun on => .fillRect x y w h on := by
  calc decode (0x12 :: (halfBytes x ++ halfBytes y ++ halfBytes w ++ halfBytes h ++ [b]))
    _ = (decodeOn b).map fun on =>
          .fillRect (x.extractLsb' 8 8 ++ x.extractLsb' 0 8) (y.extractLsb' 8 8 ++ y.extractLsb' 0 8)
            (w.extractLsb' 8 8 ++ w.extractLsb' 0 8) (h.extractLsb' 8 8 ++ h.extractLsb' 0 8) on := rfl
    _ = _ := by simp only [half_of_bytes]

end Sys2Proof

namespace Sys2Proof.Machine

open Sys2Proof.Safety Sys2Proof.Claims

/-! ## Painting a set of places -/

/-- From `c` to `d` the places (byte, bit) of `L` were given the value `on` and no other place was changed;
the flags set are those already set and those of the pages of the bytes that changed (R25, R101). -/
structure Paints (cfg : Config) (on : Bool) (L : Nat → Nat → Prop) (c d : Canvas) : Prop where
  inside : ∀ i k, L i k → (d.fb.read i).getLsbD k = on
  outside : ∀ i k, ¬ L i k → (d.fb.read i).getLsbD k = (c.fb.read i).getLsbD k
  flags : ∀ p, dirtyAt d.dirty p = true ↔
    dirtyAt c.dirty p = true ∨ ∃ i, i / cfg.width = p ∧ d.fb.read i ≠ c.fb.read i

namespace Paints

variable {cfg : Config} {on : Bool} {L M : Nat → Nat → Prop} {c d e : Canvas}

theorem refl (cfg : Config) (on : Bool) (c : Canvas) : Paints cfg on (fun _ _ => False) c c where
  inside _ _ h := h.elim
  outside _ _ _ := rfl
  flags p := by simp

theorem congr (h : Paints cfg on L c d) (hLM : ∀ i k, L i k ↔ M i k) : Paints cfg on M c d := by
  obtain rfl : L = M := funext fun i => funext fun k => propext (hLM i k)
  exact h

/-- A byte with no place of `L` is unchanged. -/
theorem read_eq_of_forall_not (h : Paints cfg on L c d) {i : Nat} (hi : ∀ k < 8, ¬ L i k) :
    d.fb.read i = c.fb.read i :=
  BitVec.eq_of_getLsbD_eq fun k hk => h.outside i k (hi k hk)

/-- Two paintings with the same value undo no change: a byte that ends as it began was never changed. -/
theorem read_eq_of_return (h : Paints cfg on L c d) (h' : Paints cfg on M d e) {i : Nat}
    (hi : e.fb.read i = c.fb.read i) : d.fb.read i = c.fb.read i := by
  refine BitVec.eq_of_getLsbD_eq fun k _ => ?_
  by_cases hL : L i k
  · have hde : (e.fb.read i).getLsbD k = (d.fb.read i).getLsbD k := by
      by_cases hM : M i k
      · rw [h'.inside i k hM, h.inside i k hL]
      · exact h'.outside i k hM
    rw [← hde, hi]
  · exact h.outside i k hL

/-- One painting after another paints the places of both: because they share the value, a byte has changed
overall exactly if one of them changed it (R109). -/
theorem trans (h : Paints cfg on L c d) (h' : Paints cfg on M d e) :
    Paints cfg on (fun i k => L i k ∨ M i k) c e where
  inside i k hLM := by
    by_cases hM : M i k
    · exact h'.inside i k hM
    · rw [h'.outside i k hM, h.inside i k (hLM.resolve_right hM)]
  outside i k hLM := by
    rw [not_or] at hLM
    rw [h'.outside i k hLM.2, h.outside i k hLM.1]
  flags p := by
    have hchanged (i : Nat) : e.fb.read i ≠ c.fb.read i ↔
        d.fb.read i ≠ c.fb.read i ∨ e.fb.read i ≠ d.fb.read i := by
      have hreturn := h.read_eq_of_return h' (i := i)
      grind
    rw [h'.flags, h.flags]
    simp only [hchanged, and_or_left, exists_or, or_assoc]

/-- What was painted is determined by the places and the value (R109). -/
theorem unique (h : Paints cfg on L c d) (h' : Paints cfg on L c e) (hd : d.fb.wf) (he : e.fb.wf) :
    d = e := by
  have hfb : d.fb = e.fb := memory_ext _ _ hd he fun i => BitVec.eq_of_getLsbD_eq fun k _ => by
    by_cases hL : L i k
    · rw [h.inside i k hL, h'.inside i k hL]
    · rw [h.outside i k hL, h'.outside i k hL]
  have hdirty : d.dirty = e.dirty := dirty_ext fun p => by
    rw [Bool.eq_iff_iff, h.flags, h'.flags, hfb]
  cases d
  cases e
  exact congrArg₂ Canvas.mk hfb hdirty

end Paints

/-- The page of a byte of FB has a flag in DIRTY. -/
theorem page_lt_eight {cfg : Config} (hl : cfg.Legal) {i : Nat} (hi : i < cfg.fbSize) :
    i / cfg.width < 8 :=
  Nat.lt_of_lt_of_le (Nat.div_lt_of_lt_mul hi) (pages_le_eight hl)

/-- MemWrite paints places of its byte if the byte written has `on` there and the old bits elsewhere. -/
theorem memWrite_paints {cfg : Config} (hl : cfg.Legal) {on : Bool} {L : Nat → Nat → Prop} {c : Canvas}
    (hc : c.fb.wf) {i : Nat} (hi : i < cfg.fbSize) {v : Byte} (honly : ∀ j k, L j k → j = i)
    (hin : ∀ k, L i k → v.getLsbD k = on)
    (hout : ∀ k, ¬ L i k → v.getLsbD k = (c.fb.read i).getLsbD k) :
    Paints cfg on L c (memWrite cfg i v c) where
  inside j k hL := by
    obtain rfl := honly j k hL
    rw [memWrite_read cfg hc, if_pos rfl, hin k hL]
  outside j k hL := by
    rw [memWrite_read cfg hc]
    split
    next hji => subst hji; exact hout k hL
    · rfl
  flags p := by
    have hchanged : (∃ j, j / cfg.width = p ∧ (memWrite cfg i v c).fb.read j ≠ c.fb.read j) ↔
        i / cfg.width = p ∧ v ≠ c.fb.read i := by
      simp only [memWrite_read cfg hc]
      constructor
      · rintro ⟨j, hp, hj⟩
        obtain rfl : j = i := by_contra fun hne => hj (if_neg hne)
        exact ⟨hp, by simpa using hj⟩
      · rintro ⟨hp, hv⟩
        exact ⟨i, hp, by simpa using hv⟩
    have hpage := page_lt_eight hl hi
    rw [hchanged, memWrite]
    split
    next hv =>
      simp only [setDirty_at, Bool.or_eq_true, Bool.and_eq_true, decide_eq_true_eq]
      grind
    next hv => simp [hv]

/-! ## The places of points and of whole bytes -/

/-- Bit k of byte i is the place of an in-bounds point of the list (R50, R102). -/
def Plotted (cfg : Config) (pts : List (Int × Int)) (i k : Nat) : Prop :=
  ∃ p ∈ pts, inBounds cfg p.1 p.2 ∧ i = pixelIndex cfg p.1.toNat p.2.toNat ∧ k = pixelBit p.2.toNat

theorem inBounds_toNat {cfg : Config} {x y : Int} (h : inBounds cfg x y) :
    x.toNat < cfg.width ∧ y.toNat < cfg.height := by
  obtain ⟨⟨hx0, hx⟩, hy0, hy⟩ := h
  omega

theorem plotted_cons (cfg : Config) (p : Int × Int) (pts : List (Int × Int)) (i k : Nat) :
    Plotted cfg (p :: pts) i k ↔ Plotted cfg [p] i k ∨ Plotted cfg pts i k := by
  simp [Plotted]

/-- A pixel in bounds is plotted exactly if it is a point of the list: no other has its place (R50). -/
theorem plotted_pixel_iff {cfg : Config} (pts : List (Int × Int)) {x y : Nat} (hx : x < cfg.width)
    (hy : y < cfg.height) :
    Plotted cfg pts (pixelIndex cfg x y) (pixelBit y) ↔ ((x : Int), (y : Int)) ∈ pts := by
  constructor
  · rintro ⟨⟨px, py⟩, hp, hb, hi, hk⟩
    obtain ⟨hpx, -⟩ := inBounds_toNat hb
    have hxeq : x = px.toNat := by
      rw [← pixelIndex_mod hx (y := y), hi, pixelIndex_mod hpx]
    have hyeq : y = py.toNat := by
      rw [← placeRow_pixel hx y, hi, hk, placeRow_pixel hpx]
    obtain ⟨⟨hx0, -⟩, hy0, -⟩ := hb
    rwa [hxeq, hyeq, Int.toNat_of_nonneg hx0, Int.toNat_of_nonneg hy0]
  · intro hp
    exact ⟨_, hp, ⟨⟨by omega, by omega⟩, by omega, by omega⟩, rfl, rfl⟩

theorem lt_fbSize_of_plotted {cfg : Config} (hl : cfg.Legal) {pts : List (Int × Int)} {i k : Nat}
    (h : Plotted cfg pts i k) : i < cfg.fbSize := by
  obtain ⟨p, -, hb, rfl, -⟩ := h
  exact pixelIndex_lt hl (inBounds_toNat hb).1 (inBounds_toNat hb).2

/-- PLOT paints its point, or nothing out of bounds (R102). -/
theorem plot_paints {cfg : Config} (hl : cfg.Legal) (on : Bool) {c : Canvas} (hc : c.fb.wf)
    (p : Int × Int) : Paints cfg on (Plotted cfg [p]) c (plot cfg on c p) := by
  have hplotted (i k : Nat) : Plotted cfg [p] i k ↔
      inBounds cfg p.1 p.2 ∧ i = pixelIndex cfg p.1.toNat p.2.toNat ∧ k = pixelBit p.2.toNat := by
    simp only [Plotted, List.mem_singleton, exists_eq_left]
  rw [plot]
  split
  next hb =>
    obtain ⟨hx, hy⟩ := inBounds_toNat hb
    refine memWrite_paints hl hc (pixelIndex_lt hl hx hy) (fun j k h => ((hplotted j k).mp h).2.1)
      (fun k h => ?_) fun k h => ?_
    · obtain ⟨-, -, hk⟩ := (hplotted _ k).mp h
      exact (plotted_getLsbD _ _ on k).trans (if_pos hk)
    · exact (plotted_getLsbD _ _ on k).trans (if_neg fun hk => h ((hplotted _ k).mpr ⟨hb, rfl, hk⟩))
  next hb => exact (Paints.refl cfg on c).congr fun i k => by simp only [hplotted, hb, false_and]

/-- PLOT of each point of a list paints its in-bounds points. -/
theorem plotAll_paints {cfg : Config} (hl : cfg.Legal) (on : Bool) (pts : List (Int × Int))
    {c : Canvas} (hc : c.fb.wf) : Paints cfg on (Plotted cfg pts) c (plotAll cfg on pts c) := by
  induction pts generalizing c with
  | nil => exact (Paints.refl cfg on c).congr fun i k => by simp [Plotted]
  | cons p pts ih =>
    exact ((plot_paints hl on hc p).trans (ih (plot_wf cfg on c p hc))).congr fun i k =>
      (plotted_cons cfg p pts i k).symm

/-- CLEAR's loop darkens every place of the bytes it has reached (R103). -/
theorem clearBytes_paints {cfg : Config} (hl : cfg.Legal) {c : Canvas} (hc : c.fb.wf) {n : Nat}
    (hn : n ≤ cfg.fbSize) : Paints cfg false (fun i _ => i < n) c (clearBytes cfg n c) := by
  induction n with
  | zero => exact (Paints.refl cfg false c).congr fun i k => by simp
  | succ n ih =>
    have hlast : Paints cfg false (fun i _ => i = n) (clearBytes cfg n c) (clearBytes cfg (n + 1) c) :=
      memWrite_paints hl (clearBytes_wf cfg n c hc) hn (fun _ _ h => h) (fun _ _ => by simp)
        fun _ h => absurd rfl h
    exact ((ih (by omega)).trans hlast).congr fun i _ => by omega

/-- Settles O38: both lists paint the same places, and a painting is determined by its places. -/
theorem plotOrderIsNotObservable : Obligations.PlotOrderIsNotObservable := by
  intro cfg c on ps qs hl hc hpq
  have hps : Paints cfg on (Plotted cfg qs) c (plotAll cfg on ps c) :=
    (plotAll_paints hl on ps hc).congr fun i k => by simp only [Plotted, hpq]
  exact hps.unique (plotAll_paints hl on qs hc) (plotAll_wf cfg on ps c hc) (plotAll_wf cfg on qs c hc)

/-! ## Drawing commands -/

/-- The statements' pixel is the model's place of it (R50). -/
theorem lit_eq (c : Config) (fb : Memory) (x y : Nat) :
    lit c fb x y = (fb.read (pixelIndex c x y)).getLsbD (pixelBit y) := rfl

/-- The indices of page p are `p * WIDTH + c` for the columns c (R51). -/
theorem exists_div_eq_iff {w : Nat} (hw : 0 < w) (p : Nat) (P : Nat → Prop) :
    (∃ i, i / w = p ∧ P i) ↔ ∃ c < w, P (p * w + c) := by
  constructor
  · rintro ⟨i, rfl, hi⟩
    exact ⟨i % w, Nat.mod_lt i hw, by rwa [Nat.div_add_mod']⟩
  · rintro ⟨c, hc, hP⟩
    refine ⟨p * w + c, ?_, hP⟩
    rw [Nat.add_comm, Nat.add_mul_div_right c p hw, Nat.div_eq_of_lt hc, Nat.zero_add]

/-- A command that ends OK with a canvas on which the places of the pixels of `S` were painted draws `S`. -/
theorem draws_of_paints {i : Instr} {s : State} {on : Bool} {S : Int → Int → Prop}
    {L : Nat → Nat → Prop} {d : Canvas} (hinv : CoreInv s)
    (hexec : exec i s = .next (finish .ok 0x00 (s.withCanvas d)))
    (hpaint : Paints s.cfg on L s.canvas d) (hrange : ∀ a k, L a k → a < s.cfg.fbSize)
    (hpixel : ∀ x y : Nat, x < s.cfg.width → y < s.cfg.height →
      (L (pixelIndex s.cfg x y) (pixelBit y) ↔ S x y)) :
    Draws i s on S := by
  have hl := hinv.build
  refine ⟨d.fb, d.dirty, hexec, fun x y hx hy => ?pixels, fun a ha => ?bytes, fun p hp => ?flags,
    fun p hp => ?reserved⟩
  case pixels =>
    have hS := hpixel x y hx hy
    simp only [lit_eq]
    by_cases h : S x y
    · simp [h, hpaint.inside _ _ (hS.mpr h)]
    · simp [h, hpaint.outside _ _ (mt hS.mp h)]
  case bytes =>
    refine hpaint.read_eq_of_forall_not fun k hk hL => ?_
    have hx : a % s.cfg.width < s.cfg.width := Nat.mod_lt a hl.1
    have hy : placeRow s.cfg a k < s.cfg.height := placeRow_lt hl (hrange a k hL) hk
    have hindex := pixelIndex_placeRow s.cfg a hk
    have hplace : L (pixelIndex s.cfg (a % s.cfg.width) (placeRow s.cfg a k))
        (pixelBit (placeRow s.cfg a k)) := by
      rwa [hindex, pixelBit_placeRow s.cfg a hk]
    exact ha _ _ hx hy ((hpixel _ _ hx hy).mp hplace) hindex
  case flags =>
    exact (hpaint.flags p).trans (or_congr_right (exists_div_eq_iff hl.1 p _))
  case reserved =>
    refine Bool.eq_false_iff.mpr fun hset => ?_
    rcases (hpaint.flags p).mp hset with hset | ⟨a, rfl, hchanged⟩
    · exact absurd hset (by simp [(dirtyInRange_iff hl s.dirty).mp hinv.dirtyInRange p hp])
    · refine hchanged (hpaint.read_eq_of_forall_not fun k _ hL => ?_)
      exact absurd (Nat.div_lt_of_lt_mul (hrange a k hL)) (Nat.not_lt.mpr hp)

/-- A drawing command that PLOTs a list of points draws the set of its points. -/
theorem draws_of_drawPoints {i : Instr} {s : State} {on : Bool} {S : Int → Int → Prop}
    {pts : List (Int × Int)} (hinv : CoreInv s) (hexec : exec i s = .next (drawPoints on pts s))
    (hS : ∀ x y : Int, (x, y) ∈ pts ↔ S x y) : Draws i s on S :=
  draws_of_paints hinv hexec (plotAll_paints hinv.build on pts hinv.fbCanonical)
    (fun _ _ h => lt_fbSize_of_plotted hinv.build h)
    fun x y hx hy => (plotted_pixel_iff pts hx hy).trans (hS x y)

/-- The drawing commands and READ_BYTE run behind the same row of the state check (R222). -/
theorem exec_eq_guarded_framebuffer {i : Instr} (hi : commandClass i = .framebuffer) :
    ∃ body, ∀ s, exec i s = guarded .framebuffer body s := by
  cases i with
  | clear | setPixel | fillRect | drawLine | drawCircle | drawGlyph | drawText | readByte =>
    exact ⟨_, fun _ => rfl⟩
  | cmdOpen | cmdInit | cmdFlush | cmdClose | readReg => cases hi

/-- A framebuffer command answers STATE_ERROR where there is no framebuffer (R222). -/
theorem stateError_of_not_fbValid {i : Instr} {s : State} (hi : commandClass i = .framebuffer)
    (hf : s.ctl.fbValid = false) : StateError i s := by
  obtain ⟨body, hexec⟩ := exec_eq_guarded_framebuffer hi
  exact (hexec s).trans (guarded_illegal (cls := .framebuffer) hf body)

theorem exec_clear_of_fbValid {s : State} (hf : s.ctl.fbValid = true) :
    exec .clear s =
      .next (finish .ok 0x00 (s.withCanvas (clearBytes s.cfg s.cfg.fbSize s.canvas))) := by
  rw [exec, execClear, guarded_legal (cls := .framebuffer) hf]

theorem exec_readByte_of_fbValid {s : State} (hf : s.ctl.fbValid = true) (index : Half) :
    exec (.readByte index) s =
      .next (if index.toNat ≥ s.cfg.fbSize then raise .rangeError s
        else finish .ok (s.fb.read index.toNat) s) := by
  rw [exec, execReadByte, guarded_legal (cls := .framebuffer) hf]

/-- Settles O40: the places of the bytes below WIDTH*PAGES are those of every pixel. -/
theorem clearDarkensEveryPixel : Obligations.ClearDarkensEveryPixel := by
  refine ⟨fun s hinv hf => ?_, fun s hf => stateError_of_not_fbValid rfl hf, rfl⟩
  exact draws_of_paints hinv (exec_clear_of_fbValid hf)
    (clearBytes_paints hinv.build hinv.fbCanonical le_rfl) (fun _ _ h => h)
    fun x y hx hy => iff_true_intro (pixelIndex_lt hinv.build hx hy)

/-- Settles O41: SET_PIXEL plots the one-point list. -/
theorem setPixelChangesOnePixel : Obligations.SetPixelChangesOnePixel := by
  refine ⟨fun x y on s hinv hf => ?_, fun x y on s hf => stateError_of_not_fbValid rfl hf,
    fun x y b => ?_⟩
  · exact draws_of_drawPoints hinv (guarded_legal (cls := .framebuffer) hf _) fun px py => by simp
  · rw [bytesOf_eq_halfBytes, bytesOf_eq_halfBytes, decode_setPixel, map_decodeOn]

/-- The integers of `[lo, hi)` (R9). -/
theorem mem_intRange {lo hi n : Int} : n ∈ intRange lo hi ↔ lo ≤ n ∧ n < hi := by
  simp only [intRange, List.mem_map, List.mem_range]
  constructor
  · rintro ⟨k, hk, rfl⟩
    omega
  · rintro ⟨hlo, hhi⟩
    exact ⟨(n - lo).toNat, by omega, by omega⟩

/-- The cells of FILL_RECT are those of `[x, x + w) × [y, y + h)` (R105). -/
theorem mem_rectPoints {x y w h px py : Int} :
    (px, py) ∈ rectPoints x y w h ↔ (x ≤ px ∧ px < x + w) ∧ (y ≤ py ∧ py < y + h) := by
  simp only [rectPoints, List.mem_flatMap, List.mem_map, mem_intRange, Prod.mk.injEq]
  constructor
  · rintro ⟨j, hj, i, hi, rfl, rfl⟩
    omega
  · rintro ⟨hx, hy⟩
    exact ⟨py - y, by omega, px - x, by omega, by omega, by omega⟩

/-- Settles O42: FILL_RECT plots the cells of its rectangle. -/
theorem fillRectFillsTheRectangle : Obligations.FillRectFillsTheRectangle := by
  refine ⟨fun x y w h on s hinv hf => ?_, fun x y w h on s hf => stateError_of_not_fbValid rfl hf,
    fun x y w h b => ?_⟩
  · exact draws_of_drawPoints hinv (guarded_legal (cls := .framebuffer) hf _) fun px py => mem_rectPoints
  · simp only [bytesOf_eq_halfBytes]
    rw [decode_fillRect, map_decodeOn]

/-- Settles O50: the state check passes, and the index decides between the byte and RANGE_ERROR. -/
theorem readByteReturnsTheByte : Obligations.ReadByteReturnsTheByte := by
  refine ⟨fun index s hf hi => ?_, fun index s hf hi => ?_,
    fun index s hf => stateError_of_not_fbValid rfl hf, fun index => ?_⟩
  · exact (exec_readByte_of_fbValid hf index).trans
      (congrArg Host.Outcome.next (if_neg (Nat.not_le_of_lt hi)))
  · exact (exec_readByte_of_fbValid hf index).trans (congrArg Host.Outcome.next (if_pos hi))
  · rw [bytesOf_eq_halfBytes]
    rfl

end Sys2Proof.Machine
end


section
/-! PROOFS. The rasterizer commands (41_rasterizer.md R130 to R135): the points each one plots, as a set, and
the packets it is read from. -/

namespace Sys2Proof

/-! ## Packet fields -/

theorem decode_drawLine (x0 y0 x1 y1 : Half) (b : Byte) :
    decode (0x13 :: (halfBytes x0 ++ halfBytes y0 ++ halfBytes x1 ++ halfBytes y1 ++ [b])) =
      (decodeOn b).map fun on => .drawLine x0 y0 x1 y1 on := by
  calc decode (0x13 :: (halfBytes x0 ++ halfBytes y0 ++ halfBytes x1 ++ halfBytes y1 ++ [b]))
    _ = (decodeOn b).map fun on =>
          .drawLine (x0.extractLsb' 8 8 ++ x0.extractLsb' 0 8) (y0.extractLsb' 8 8 ++ y0.extractLsb' 0 8)
            (x1.extractLsb' 8 8 ++ x1.extractLsb' 0 8) (y1.extractLsb' 8 8 ++ y1.extractLsb' 0 8) on :=
        rfl
    _ = _ := by simp only [half_of_bytes]

theorem decode_drawCircle (cx cy r : Half) (b : Byte) :
    decode (0x14 :: (halfBytes cx ++ halfBytes cy ++ halfBytes r ++ [b])) =
      (decodeOn b).map fun on => .drawCircle cx cy r on := by
  calc decode (0x14 :: (halfBytes cx ++ halfBytes cy ++ halfBytes r ++ [b]))
    _ = (decodeOn b).map fun on =>
          .drawCircle (cx.extractLsb' 8 8 ++ cx.extractLsb' 0 8)
            (cy.extractLsb' 8 8 ++ cy.extractLsb' 0 8) (r.extractLsb' 8 8 ++ r.extractLsb' 0 8) on := rfl
    _ = _ := by simp only [half_of_bytes]

/-- The bytes after the opcode of a packet with a count byte: two fields, the byte at offset 5, the count
and what it counts (R73). -/
def countedFields (x y : Half) (b n : Byte) (tail : List Byte) : List Byte :=
  halfBytes x ++ halfBytes y ++ [b, n] ++ tail

/-- The length check of a packet with a count byte compares that byte with what follows it (R75). -/
theorem decode_counted {o : Opcode} (ho : o.hasCount = true) (x y : Half) (b n : Byte)
    (tail : List Byte) :
    decode (o.code :: countedFields x y b n tail) =
      if tail.length = n.toNat then decodeFields o (o.code :: countedFields x y b n tail)
      else .error .wrongLength := by
  have hlength : (o.code :: countedFields x y b n tail).length = 7 + tail.length := by
    simp [countedFields, halfBytes]
    omega
  have hneed : o.length n = 7 + n.toNat := by
    cases o with
    | drawGlyph | drawText => rfl
    | _ => cases ho
  have hcount : byteAt (o.code :: countedFields x y b n tail) 6 = n := rfl
  simp only [decode, ofByte_code, hlength, hcount, hneed]
  rw [if_neg (by omega)]
  by_cases h : tail.length = n.toNat
  · rw [if_neg (by omega), if_pos h]
  · rw [if_pos (by omega), if_neg h]

theorem decode_drawGlyph (x y : Half) (b n : Byte) (cols : List Byte) :
    decode (0x15 :: countedFields x y b n cols) =
      if cols.length = n.toNat then
        if n = 5 ∨ n = 6 then (decodeOn b).map fun on => .drawGlyph x y on cols
        else .error .reservedColumnCount
      else .error .wrongLength := by
  have hfields : decodeFields .drawGlyph (0x15 :: countedFields x y b n cols) =
      if n = 5 ∨ n = 6 then
        (decodeOn b).map fun on => .drawGlyph (x.extractLsb' 8 8 ++ x.extractLsb' 0 8)
          (y.extractLsb' 8 8 ++ y.extractLsb' 0 8) on cols
      else .error .reservedColumnCount := rfl
  refine (decode_counted (o := .drawGlyph) rfl x y b n cols).trans ?_
  rw [Opcode.code, hfields]
  simp only [half_of_bytes]

theorem decode_drawText (x y : Half) (scale n : Byte) (chars : List Byte) :
    decode (0x16 :: countedFields x y scale n chars) =
      if chars.length = n.toNat then
        if scale = 0 then .error .reservedScale else .ok (.drawText x y scale chars)
      else .error .wrongLength := by
  have hfields : decodeFields .drawText (0x16 :: countedFields x y scale n chars) =
      if scale = 0 then .error .reservedScale
      else .ok (.drawText (x.extractLsb' 8 8 ++ x.extractLsb' 0 8)
        (y.extractLsb' 8 8 ++ y.extractLsb' 0 8) scale chars) := rfl
  refine (decode_counted (o := .drawText) rfl x y scale n chars).trans ?_
  rw [Opcode.code, hfields]
  simp only [half_of_bytes]

end Sys2Proof

namespace Sys2Proof.Machine

open Sys2Proof.Safety Sys2Proof.Claims

/-! ## DRAW_LINE -/

/-- The model's loop plots what R130's loop plots, given at least that many PLOTs. -/
theorem lineLoop_eq_of_lineRun {dx dy sx sy x1 y1 err x y : Int} {pts : List (Int × Int)}
    (h : LineRun dx dy sx sy x1 y1 err x y pts) {fuel : Nat} (hfuel : pts.length ≤ fuel) :
    lineLoop dx dy sx sy x1 y1 fuel err x y = pts := by
  induction h generalizing fuel with
  | atEnd err =>
    obtain ⟨fuel, rfl⟩ := Nat.exists_eq_add_one_of_ne_zero (Nat.ne_of_gt hfuel)
    simp [lineLoop]
  | @advance err x y e2 errA errB xA yB rest notEnd he2 stepX stepY _ ih =>
    obtain ⟨fuel, rfl⟩ := Nat.exists_eq_add_one_of_ne_zero (Nat.ne_of_gt (Nat.zero_lt_of_lt hfuel))
    have hrest := ih (fuel := fuel) (by simpa using hfuel)
    have herr : errB = (if 2 * err > -dy then err - dy else err) + (if 2 * err < dx then dx else 0) := by
      grind
    have hx : xA = if 2 * err > -dy then x + sx else x := by grind
    have hy : yB = if 2 * err < dx then y + sy else y := by grind
    rw [lineLoop, if_neg notEnd, ← herr, ← hx, ← hy, hrest]

/-- R130's loop treats its two axes alike: with the axes exchanged the error term changes its sign. -/
theorem lineRun_swap {dx dy sx sy x1 y1 err x y : Int} {pts : List (Int × Int)}
    (h : LineRun dx dy sx sy x1 y1 err x y pts) :
    LineRun dy dx sy sx y1 x1 (-err) y x (pts.map Prod.swap) := by
  induction h with
  | atEnd err => exact .atEnd (-err)
  | @advance err x y e2 errA errB xA yB rest notEnd he2 stepX stepY _ ih =>
    refine .advance (errA := -err + (errA - errB)) (fun h => notEnd h.symm) rfl ?_ ?_ ih
    · split_ifs at stepY ⊢ <;> omega
    · split_ifs at stepX ⊢ <;> omega

/-- R130's loop where x is the longer axis, with n steps in x and b in y to go. The error term is dx - dy less
off = b*dx - n*dy, which is dx times the distance in y by which the point lags behind the line. While that is at
most half a step (hmove says more than hhigh only if dx = dy), x moves in every step and the next point lags
no more; with n at 0 this leaves b = 0. -/
theorem exists_lineRun_of_dy_le_dx {dx dy sx sy x1 y1 : Int} (hdy : 0 ≤ dy) (hdx : 0 < dx) (hle : dy ≤ dx)
    (hsx : sx = 1 ∨ sx = -1) (n : Nat) {b off err x y : Int} (hx : x1 = x + n * sx)
    (hy : y1 = y + b * sy) (hoff : off = b * dx - n * dy) (herr : err = dx - dy - off)
    (hlow : -dx < 2 * off) (hhigh : 2 * off ≤ dx) (hmove : 2 * off < 2 * dx - dy) :
    ∃ pts, LineRun dx dy sx sy x1 y1 err x y pts ∧ pts.length = n + 1 := by
  induction n generalizing b off err x y with
  | zero =>
    obtain rfl : b = 0 := by
      rw [Nat.cast_zero, zero_mul, sub_zero] at hoff
      nlinarith
    obtain rfl : x = x1 := by simpa using hx.symm
    obtain rfl : y = y1 := by simpa using hy.symm
    exact ⟨[(x, y)], .atEnd err, rfl⟩
  | succ n ih =>
    push_cast at hx hoff
    have hnotEnd : ¬(x = x1 ∧ y = y1) := by
      rintro ⟨h, -⟩
      rcases hsx with rfl | rfl <;> omega
    have hx' : x1 = x + sx + n * sx := by linarith
    have hmoveX : 2 * err > -dy := by linarith
    by_cases hmoveY : 2 * err < dx
    · obtain ⟨pts, hrun, hlen⟩ := ih (b := b - 1) (off := off + dy - dx) (err := err - dy + dx) hx'
        (y := y + sy) (by linarith) (by linarith) (by linarith) (by linarith) (by linarith) (by linarith)
      exact ⟨(x, y) :: pts,
        .advance (errA := err - dy) hnotEnd rfl (by simp [hmoveX]) (by simp [hmoveY]) hrun, by simp [hlen]⟩
    · obtain ⟨pts, hrun, hlen⟩ := ih (off := off + dy) (err := err - dy) hx' hy
        (by linarith) (by linarith) (by linarith) (by linarith) (by linarith)
      exact ⟨(x, y) :: pts,
        .advance (errA := err - dy) hnotEnd rfl (by simp [hmoveX]) (by simp [hmoveY]) hrun, by simp [hlen]⟩

theorem direction_eq (a b : Int) :
    (if a < b then 1 else -1 : Int) = 1 ∨ (if a < b then 1 else -1 : Int) = -1 := by
  split <;> simp

/-- |b - a| steps of R130's direction lead from a to b. -/
theorem eq_add_abs_mul_direction (a b : Int) : b = a + |b - a| * (if a < b then 1 else -1) := by
  split
  next h => rw [abs_of_pos (by omega)]; ring
  next h => rw [abs_of_nonpos (by omega)]; ring

/-- A line at least as wide as high is plotted in one PLOT per column. -/
theorem exists_lineRun_of_natAbs_le {x0 y0 x1 y1 : Int} (h : (y1 - y0).natAbs ≤ (x1 - x0).natAbs) :
    ∃ pts, LineRun |x1 - x0| |y1 - y0| (if x0 < x1 then 1 else -1) (if y0 < y1 then 1 else -1) x1 y1
      (|x1 - x0| - |y1 - y0|) x0 y0 pts ∧ pts.length = (x1 - x0).natAbs + 1 := by
  have hle : |y1 - y0| ≤ |x1 - x0| := by simpa only [Int.natCast_natAbs] using Int.ofNat_le.mpr h
  rcases (abs_nonneg (x1 - x0)).eq_or_lt with hdx | hdx
  · obtain rfl : x1 = x0 := sub_eq_zero.mp (abs_eq_zero.mp hdx.symm)
    obtain rfl : y1 = y0 := sub_eq_zero.mp (abs_nonpos_iff.mp (hdx ▸ hle))
    exact ⟨[(x1, y1)], .atEnd _, by simp⟩
  · have hcast : ((x1 - x0).natAbs : Int) = |x1 - x0| := Int.natCast_natAbs _
    exact exists_lineRun_of_dy_le_dx (b := |y1 - y0|) (off := 0) (abs_nonneg _) hdx hle (direction_eq x0 x1) _
      (by rw [hcast]; exact eq_add_abs_mul_direction x0 x1) (eq_add_abs_mul_direction y0 y1)
      (by rw [hcast]; ring) (by ring) (by linarith) (by linarith) (by linarith)

/-- R130's loop ends after max(dx, dy) + 1 PLOTs (R131): along x, or along y by exchanging the axes. -/
theorem exists_lineRun (x0 y0 x1 y1 : Int) :
    ∃ pts, LineRun |x1 - x0| |y1 - y0| (if x0 < x1 then 1 else -1) (if y0 < y1 then 1 else -1) x1 y1
      (|x1 - x0| - |y1 - y0|) x0 y0 pts ∧
      pts.length = max (x1 - x0).natAbs (y1 - y0).natAbs + 1 := by
  rcases le_total (y1 - y0).natAbs (x1 - x0).natAbs with h | h
  · obtain ⟨pts, hrun, hlen⟩ := exists_lineRun_of_natAbs_le h
    exact ⟨pts, hrun, by rw [hlen, max_eq_left h]⟩
  · obtain ⟨pts, hrun, hlen⟩ := exists_lineRun_of_natAbs_le h
    exact ⟨pts.map Prod.swap, by simpa only [neg_sub] using lineRun_swap hrun,
      by rw [List.length_map, hlen, max_eq_right h]⟩

/-- The points DRAW_LINE plots are those of R130's loop, none cut off. -/
theorem lineRun_linePoints (x0 y0 x1 y1 : Int) :
    LineRun |x1 - x0| |y1 - y0| (if x0 < x1 then 1 else -1) (if y0 < y1 then 1 else -1) x1 y1
      (|x1 - x0| - |y1 - y0|) x0 y0 (linePoints x0 y0 x1 y1) := by
  obtain ⟨pts, hrun, hlen⟩ := exists_lineRun x0 y0 x1 y1
  simp only [linePoints, Int.natCast_natAbs]
  rwa [lineLoop_eq_of_lineRun hrun hlen.le]

/-- Settles O43: R130's loop ends within the PLOTs the model gives it, so the model plots all its points. -/
theorem drawLinePlotsTheBresenhamLoop : Obligations.DrawLinePlotsTheBresenhamLoop := by
  refine ⟨fun x0 y0 x1 y1 on s hinv hf => ⟨_, lineRun_linePoints _ _ _ _, ?_⟩,
    fun x0 y0 x1 y1 on s hf => stateError_of_not_fbValid rfl hf, fun x0 y0 x1 y1 b => ?_⟩
  · exact draws_of_drawPoints hinv (guarded_legal (cls := .framebuffer) hf _) fun px py => Iff.rfl
  · simp only [bytesOf_eq_halfBytes]
    rw [decode_drawLine, map_decodeOn]

/-! ## DRAW_CIRCLE -/

/-- The points of DRAW_CIRCLE are the disc: the square it visits holds all of it (R132). -/
theorem mem_circlePoints {cx cy r px py : Int} :
    (px, py) ∈ circlePoints cx cy r ↔ 0 ≤ r ∧ (px - cx) ^ 2 + (py - cy) ^ 2 ≤ r ^ 2 := by
  simp only [circlePoints, circleCells, List.mem_map, List.mem_filter, List.mem_flatMap, mem_intRange,
    decide_eq_true_eq, Prod.exists, Prod.mk.injEq, ← sq]
  constructor
  · rintro ⟨i, j, ⟨⟨j', hj, i', hi, rfl, rfl⟩, hdisc⟩, rfl, rfl⟩
    exact ⟨by omega, by simpa using hdisc⟩
  · rintro ⟨hr, hdisc⟩
    have hi := abs_le_of_sq_le_sq' (le_of_add_le_of_nonneg_left hdisc (sq_nonneg _)) hr
    have hj := abs_le_of_sq_le_sq' (le_of_add_le_of_nonneg_right hdisc (sq_nonneg _)) hr
    exact ⟨px - cx, py - cy, ⟨⟨py - cy, by omega, px - cx, by omega, rfl, rfl⟩, hdisc⟩, by omega, by omega⟩

/-- Settles O45: DRAW_CIRCLE plots the points of its disc. -/
theorem drawCircleFillsTheDisc : Obligations.DrawCircleFillsTheDisc := by
  refine ⟨fun cx cy r on s hinv hf => ?_, fun cx cy r on s hf => stateError_of_not_fbValid rfl hf,
    fun cx cy r b => ?_⟩
  · exact draws_of_drawPoints hinv (guarded_legal (cls := .framebuffer) hf _) fun px py =>
      mem_circlePoints
  · simp only [bytesOf_eq_halfBytes]
    rw [decode_drawCircle, map_decodeOn]

/-! ## DRAW_GLYPH -/

/-- The set bits of a glyph (R134, R135). -/
theorem mem_glyphBits {ncols : Nat} {col : Nat → Byte} {c k : Nat} :
    (c, k) ∈ glyphBits ncols col ↔ c < ncols ∧ k < 8 ∧ (col c).getLsbD k = true := by
  simp [glyphBits, and_assoc]

/-- A glyph plots the pixel (x + c, y + k) for each set bit k of its column c (R134). -/
theorem mem_glyphPoints {x y px py : Int} {cols : List Byte} :
    (px, py) ∈ glyphPoints x y cols ↔ ∃ (c k : Nat) (col : Byte), cols[c]? = some col ∧ k < 8 ∧
      col.getLsbD k = true ∧ px = x + c ∧ py = y + k := by
  simp only [glyphPoints, List.mem_map, Prod.exists, mem_glyphBits, Prod.mk.injEq]
  constructor
  · rintro ⟨c, k, ⟨hc, hk, hbit⟩, rfl, rfl⟩
    exact ⟨c, k, cols[c], List.getElem?_eq_getElem hc, hk, by simpa [hc] using hbit, rfl, rfl⟩
  · rintro ⟨c, k, col, hcol, hk, hbit, rfl, rfl⟩
    obtain ⟨hc, -⟩ := List.getElem?_eq_some_iff.mp hcol
    exact ⟨c, k, ⟨hc, hk, by simpa [hcol] using hbit⟩, rfl, rfl⟩

/-- Settles O46: DRAW_GLYPH plots the set bits of its columns, and its packet has passed the checks of R75
and R77 where it decodes. -/
theorem drawGlyphBlitsTheSetBits : Obligations.DrawGlyphBlitsTheSetBits := by
  refine ⟨fun x y on cols s hinv hf => ?draws, fun x y on cols s hf => stateError_of_not_fbValid rfl hf,
    fun x y on cols hlen => ?decodes, fun x y b n cols i h => ?checks⟩
  case draws =>
    exact draws_of_drawPoints hinv (guarded_legal (cls := .framebuffer) hf _) fun px py =>
      mem_glyphPoints
  case decodes =>
    have hdecode := decode_drawGlyph x y (onByte on) (BitVec.ofNat 8 cols.length) cols
    have hcount : (BitVec.ofNat 8 cols.length = 5 ∨ BitVec.ofNat 8 cols.length = 6) ∧
        cols.length = (BitVec.ofNat 8 cols.length).toNat := by
      rcases hlen with hlen | hlen <;> rw [hlen] <;> decide
    rw [if_pos hcount.2, if_pos hcount.1, decodeOn_onByte] at hdecode
    simp only [bytesOf_eq_halfBytes]
    exact hdecode
  case checks =>
    simp only [bytesOf_eq_halfBytes] at h
    rw [← countedFields, decode_drawGlyph, map_decodeOn] at h
    split_ifs at h with hlen hn h0 h1
    · exact ⟨.inl h0, hn, hlen⟩
    · exact ⟨.inr h1, hn, hlen⟩

/-! ## DRAW_TEXT -/

/-- A block is the square of side `scale` at its corner (R135). -/
theorem mem_blockPoints {x y px py : Int} {scale : Nat} :
    (px, py) ∈ blockPoints x y scale ↔
      (x ≤ px ∧ px < x + scale) ∧ (y ≤ py ∧ py < y + scale) := by
  simp only [blockPoints, List.mem_flatMap, List.mem_map, List.mem_range, Prod.mk.injEq]
  constructor
  · rintro ⟨a, ha, b, hb, rfl, rfl⟩
    omega
  · rintro ⟨hx, hy⟩
    exact ⟨(px - x).toNat, by omega, (py - y).toNat, by omega, by omega, by omega⟩

/-- A character lights one block per set bit of its FONT glyph (R135). -/
theorem mem_charPoints {cfg : Config} {ox y px py : Int} {scale : Nat} {ch : Byte} :
    (px, py) ∈ charPoints cfg ox y scale ch ↔
      ∃ c k : Nat, c < cfg.glyphWidth.toNat ∧ k < 8 ∧ (cfg.fontColumn ch c).getLsbD k = true ∧
        (ox + c * scale ≤ px ∧ px < ox + (c + 1) * scale) ∧
        (y + k * scale ≤ py ∧ py < y + (k + 1) * scale) := by
  simp only [charPoints, List.mem_flatMap, Prod.exists, mem_glyphBits, mem_blockPoints, and_assoc,
    Nat.cast_mul, add_assoc, add_mul, one_mul]

/-- Character n of a text starts n advances after the first (R135). -/
theorem mem_textPoints {cfg : Config} {x y : Int} {scale : Nat} {chars : List Byte} {p : Int × Int} :
    p ∈ textPoints cfg x y scale chars ↔
      ∃ (n : Nat) (ch : Byte), chars[n]? = some ch ∧
        p ∈ charPoints cfg (x + n * textAdvance cfg scale) y scale ch := by
  induction chars generalizing x with
  | nil => simp [textPoints]
  | cons first rest ih =>
    have hnext (n : Nat) : x + textAdvance cfg scale + n * textAdvance cfg scale =
        x + ((n + 1 : Nat) : Int) * textAdvance cfg scale := by push_cast; ring
    rw [textPoints, List.mem_append, ih]
    simp only [hnext]
    constructor
    · rintro (hfirst | ⟨n, ch, hch, hp⟩)
      · exact ⟨0, first, rfl, by simpa using hfirst⟩
      · exact ⟨n + 1, ch, hch, hp⟩
    · rintro ⟨n, ch, hch, hp⟩
      cases n with
      | zero =>
        obtain rfl : first = ch := by simpa using hch
        exact .inl (by simpa using hp)
      | succ n => exact .inr ⟨n, ch, hch, hp⟩

/-- Settles O47: DRAW_TEXT plots the blocks of its characters, and its packet has passed the checks of R75
and R77 where it decodes. -/
theorem drawTextLightsTheScaledGlyphs : Obligations.DrawTextLightsTheScaledGlyphs := by
  refine ⟨fun x y scale chars s hinv hf => ?draws,
    fun x y scale chars s hf => stateError_of_not_fbValid rfl hf,
    fun x y scale chars hscale hlen => ?decodes, fun x y scale n chars i h => ?checks⟩
  case draws =>
    refine draws_of_drawPoints hinv (guarded_legal (cls := .framebuffer) hf _) fun px py => ?_
    simp only [mem_textPoints, mem_charPoints, textAdvance]
    constructor
    · rintro ⟨n, ch, hch, c, k, hblock⟩
      exact ⟨n, c, k, ch, hch, by simpa using hblock⟩
    · rintro ⟨n, c, k, ch, hch, hblock⟩
      exact ⟨n, ch, hch, c, k, by simpa using hblock⟩
  case decodes =>
    have hdecode := decode_drawText x y scale (BitVec.ofNat 8 chars.length) chars
    rw [if_pos (by simp; omega), if_neg hscale] at hdecode
    simp only [bytesOf_eq_halfBytes]
    exact hdecode
  case checks =>
    simp only [bytesOf_eq_halfBytes] at h
    rw [← countedFields, decode_drawText] at h
    split_ifs at h with hlen hscale
    exact ⟨hscale, hlen⟩

end Sys2Proof.Machine
end

section
/-! PROOFS. The controller commands (42_controller.md R180 to R195): OPEN, CLOSE and READ_REG, and INIT and
FLUSH as the lists of frames they send. -/

namespace Sys2Proof.Machine

open Sys2Proof.Safety Sys2Proof.Claims

/-! ## The state check -/

/-- Every command runs behind its row of the state check (R222). -/
theorem exec_eq_guarded (i : Instr) : ∃ body, ∀ s, exec i s = guarded (commandClass i) body s := by
  cases i <;> exact ⟨_, fun _ => rfl⟩

/-- A command answers STATE_ERROR in a state its row of R222's table shuts out. -/
theorem stateError_of_not_legalIn {i : Instr} {s : State} (h : ¬ legalIn (commandClass i) s.ctl = true) :
    StateError i s := by
  obtain ⟨body, hexec⟩ := exec_eq_guarded i
  exact (hexec s).trans (guarded_illegal (Bool.eq_false_iff.mpr h) body)

/-! ## OPEN and CLOSE -/

theorem exec_cmdOpen_of_closed {s : State} (hc : s.ctl = .closed) :
    exec .cmdOpen s = .next (if nextAnswer s then openGranted (afterRequest (.acquire true) s)
      else enterFailed .resourceUnavailable (afterRequest (.acquire false) s)) := by
  rw [exec, execOpen, guarded_legal (by rw [hc]; rfl)]

/-- A request uses up the next answer of the list, or a free value where the list has ended (R170). -/
theorem answers_eq_nextAnswer (s : State) :
    s.answers = nextAnswer s :: s.answers.tail ∨ (s.answers = [] ∧ s.answers.tail = []) := by
  cases h : s.answers with
  | nil => exact .inr ⟨rfl, rfl⟩
  | cons a rest => exact .inl (by rw [nextAnswer_cons h]; rfl)

/-- Settles O28: the answer to ACQUIRE decides between the two ends of OPEN. -/
theorem openAcquiresTheTransport : Obligations.OpenAcquiresTheTransport := by
  refine ⟨fun s hl hc => ?_, fun s hc => stateError_of_not_legalIn (mt legalIn_cmdOpen hc), rfl⟩
  refine ⟨nextAnswer s, s.answers.tail, (afterRequest (.acquire true) s).draws,
    answers_eq_nextAnswer s, ?_⟩
  rw [exec_cmdOpen_of_closed hc]
  split
  · exact ⟨[], allDirty s.cfg, rfl, read_nil, pagesMask_at hl⟩
  · rfl

/-- Settles O33: CLOSE runs to its end in every state. -/
theorem closeReleasesTheTransport : Obligations.CloseReleasesTheTransport :=
  ⟨fun s => ⟨_, _, execClose_eq s⟩, rfl⟩

/-! ## READ_REG -/

theorem exec_readReg_of_some {s : State} {reg v : Byte} (h : regVal s reg = some v) :
    exec (.readReg reg) s = .next { s with hostOut := s.hostOut ++ [⟨0x00, v⟩] } := by
  rw [exec, execReadReg, guarded_legal rfl, h]
  rfl

theorem exec_readReg_of_none {s : State} {reg : Byte} (h : regVal s reg = none) :
    exec (.readReg reg) s = .next { s with hostOut := s.hostOut ++ [⟨0x12, 0x00⟩] } := by
  rw [exec, execReadReg, guarded_legal rfl, h]
  rfl

/-- R29's map ends at register 0x09. -/
theorem regVal_eq_none {reg : Byte} (h : 0x0A ≤ reg.toNat) (s : State) : regVal s reg = none := by
  unfold regVal
  split
  case h_11 => rfl
  all_goals omega

/-- Settles O34: each register of R29's map is put together from its fields; in DIRTY the reserved bits are 0
already. -/
theorem readRegReturnsTheRegisterMap : Obligations.ReadRegReturnsTheRegisterMap := by
  refine ⟨fun s hinv => ⟨exec_readReg_of_some (congrArg some ?state), exec_readReg_of_some rfl,
    exec_readReg_of_some rfl, exec_readReg_of_some rfl, exec_readReg_of_some rfl,
    exec_readReg_of_some rfl, exec_readReg_of_some (congrArg some ?address),
    exec_readReg_of_some (congrArg some ?features), exec_readReg_of_some rfl,
    exec_readReg_of_some (congrArg some hinv.dirtyInRange),
    fun reg hreg => exec_readReg_of_none (regVal_eq_none hreg s)⟩, fun _ => rfl⟩
  case state =>
    rw [stateRegister]
    cases s.ctl <;> cases s.transportHeld <;> rfl
  case address => exact (BitVec.ofNat_toNat 8 s.cfg.devAddr).symm
  case features =>
    rw [featuresRegister]
    cases s.cfg.dirtyTracking <;> cases s.cfg.glyphWidth <;> rfl

/-! ## Sending a list of frames -/

/-- FRAME of each frame of a list in turn, up to the first one answered false (R171). -/
def emitFrames : List (List Byte) → State → Progress
  | [], s => .running s
  | f :: fs, s => (emit f s).andThen (emitFrames fs)

/-- `s` after the frames `fs`, all answered true, with the answers `rest` to come. -/
def sentAll (fs : List (List Byte)) (rest : List Bool) (s : State) : State :=
  { s with answers := rest, transport := s.transport ++ acknowledged fs }

/-- `s` after the frames `fs` up to frame `k`, the first answered false, with the answers `rest` to come
(R171, R224). -/
def sentUpTo (k : Nat) (fs : List (List Byte)) (rest : List Bool) (s : State) : State :=
  { s with
    answers := rest
    transport := s.transport ++ acknowledged (fs.take k) ++ [.frame (fs.getD k []) false]
    ctl := .failed, fatalCause := 0x02, lastStatus := 0x02
    hostOut := s.hostOut ++ [⟨0x02, 0x00⟩] }

theorem sentAll_sentAll (fs gs : List (List Byte)) (rest rest' : List Bool) (s : State) :
    sentAll gs rest' (sentAll fs rest s) = sentAll (fs ++ gs) rest' s := by
  simp [sentAll, acknowledged]

theorem sentUpTo_sentAll (k : Nat) (fs gs : List (List Byte)) (rest rest' : List Bool) (s : State) :
    sentUpTo k gs rest' (sentAll fs rest s) = sentUpTo (fs.length + k) (fs ++ gs) rest' s := by
  rw [sentUpTo, sentUpTo, List.take_length_add_append, List.getD_append_right _ _ _ _ (by omega),
    Nat.add_sub_cancel_left]
  simp [sentAll, acknowledged]

/-- The frames behind the one answered false are not sent. -/
theorem sentUpTo_append {k : Nat} {fs : List (List Byte)} (hk : k < fs.length) (gs : List (List Byte))
    (rest : List Bool) (s : State) : sentUpTo k (fs ++ gs) rest s = sentUpTo k fs rest s := by
  rw [sentUpTo, List.take_append_of_le_length hk.le, List.getD_append _ _ _ _ hk, sentUpTo]

theorem emitFrames_true {fs : List (List Byte)} {rest : List Bool} {s : State}
    (h : s.answers = List.replicate fs.length true ++ rest) :
    emitFrames fs s = .running (sentAll fs rest s) := by
  induction fs generalizing s with
  | nil =>
    obtain rfl : rest = s.answers := h.symm
    simp [emitFrames, sentAll, acknowledged]
  | cons f fs ih =>
    rw [emitFrames, emit_true f h, andThen_running, ih rfl]
    simp [sentAll, acknowledged]

theorem emitFrames_false {fs : List (List Byte)} {k : Nat} {rest : List Bool} {s : State}
    (hk : k < fs.length) (h : s.answers = List.replicate k true ++ false :: rest) :
    emitFrames fs s = .ended (sentUpTo k fs rest s) := by
  induction fs generalizing s k with
  | nil => cases hk
  | cons f fs ih =>
    cases k with
    | zero =>
      rw [emitFrames, emit_false f h]
      simp [sentUpTo, acknowledged]
    | succ k =>
      rw [emitFrames, emit_true f h, andThen_running, ih (Nat.lt_of_succ_lt_succ hk) rfl]
      simp [sentUpTo, acknowledged]

/-- Frames that were sent have changed nothing but the Transport's answers and log. -/
theorem eq_of_emitFrames_running {fs : List (List Byte)} {s u : State} (h : emitFrames fs s = .running u) :
    u = { s with answers := u.answers, transport := u.transport, draws := u.draws } := by
  induction fs generalizing s with
  | nil => cases h; rfl
  | cons f fs ih =>
    rcases emit_cases f s with ⟨_, he⟩ | ⟨_, he⟩ <;> rw [emitFrames, he] at h
    · exact ih (s := afterRequest (.frame f true) s) h
    · cases h

theorem emitFrames_singleton (f : List Byte) (s : State) : emitFrames [f] s = emit f s := by
  rw [emitFrames]
  cases emit f s <;> rfl

theorem emitFrames_append (fs gs : List (List Byte)) (s : State) :
    emitFrames (fs ++ gs) s = (emitFrames fs s).andThen (emitFrames gs) := by
  induction fs generalizing s with
  | nil => rfl
  | cons f fs ih =>
    rcases emit_cases f s with ⟨_, he⟩ | ⟨_, he⟩ <;> simp [emitFrames, he, ih]

/-- The command frames of a list of bytes, sent in turn (R172). -/
theorem emitCmds_eq_emitFrames (bs : List Byte) (s : State) :
    emitCmds bs s = emitFrames (bs.map (cmdFrame s.cfg)) s := by
  induction bs generalizing s with
  | nil => rfl
  | cons b bs ih =>
    rcases emit_cases (cmdFrame s.cfg b) s with ⟨_, he⟩ | ⟨_, he⟩ <;>
      simp [emitCmds, emitCmd, emitFrames, he, ih]

/-! ## INIT -/

theorem exec_cmdInit_of_opening {s : State} (hc : s.ctl = .opening) :
    exec .cmdInit s = .next ((emitFrames (initFrames s) s).complete fun u =>
      finish .ok 0x00 { u with ctl := .initialized }) := by
  have hframes : initFrames s = initSeq.map (cmdFrame s.cfg) := by
    simp only [initFrames, addressByte, ← addrW_eq]
    rfl
  rw [exec, execInit, guarded_legal (by rw [hc]; rfl), emitCmds_eq_emitFrames, hframes]

/-- Settles O29: INIT is the 25 frames of INIT_SEQ, sent in turn. -/
theorem initReplaysTheSequence : Obligations.InitReplaysTheSequence := by
  refine ⟨fun s answers hc ha => ?_, fun s k answers hc hk ha => ?_,
    fun s hc => stateError_of_not_legalIn (mt legalIn_cmdInit hc), rfl⟩
  · rw [exec_cmdInit_of_opening hc, emitFrames_true ha]
    rfl
  · rw [exec_cmdInit_of_opening hc, emitFrames_false hk ha]
    rfl

/-! ## The pages of FLUSH -/

/-- Page `p` is its four frames, and its flag is cleared once they are acknowledged (R186). -/
theorem sendPage_eq_emitFrames (p : Nat) (s : State) :
    sendPage p s = (emitFrames (pageFrames s p) s).andThen fun u =>
      .running { u with dirty := clearDirty u.dirty p } := by
  have hframes : pageFrames s p = [pageSelect p, columnLow, columnHigh].map (cmdFrame s.cfg) ++
      [dataFrame s.cfg (pageBytes s.cfg s.fb p)] := by
    simp only [pageFrames, addressByte, ← addrW_eq]
    rfl
  rw [sendPage, emitCmds_eq_emitFrames, hframes, emitFrames_append]
  cases hcmds : emitFrames ([pageSelect p, columnLow, columnHigh].map (cmdFrame s.cfg)) s with
  | ended u => rfl
  | running u =>
    have hframe := eq_of_emitFrames_running hcmds
    have hcfg : u.cfg = s.cfg := by rw [hframe]
    have hfb : u.fb = s.fb := by rw [hframe]
    rw [andThen_running, andThen_running, emitData, hcfg, hfb, emitFrames_singleton]

/-- Once page `p` is sent, the build is as it was and of DIRTY only its flag was cleared. -/
theorem frame_of_sendPage_running {p : Nat} {s u : State} (h : sendPage p s = .running u) :
    u.cfg = s.cfg ∧ u.dirty = clearDirty s.dirty p := by
  rw [sendPage_eq_emitFrames] at h
  cases hsent : emitFrames (pageFrames s p) s with
  | ended v =>
    rw [hsent] at h
    cases h
  | running v =>
    rw [hsent, eq_of_emitFrames_running hsent] at h
    cases h
    exact ⟨rfl, rfl⟩

theorem sendPage_true {p : Nat} {rest : List Bool} {s : State}
    (h : s.answers = List.replicate 4 true ++ rest) :
    sendPage p s =
      .running (sentAll (pageFrames s p) rest { s with dirty := clearDirty s.dirty p }) := by
  rw [sendPage_eq_emitFrames, emitFrames_true h]
  rfl

theorem sendPage_false {p k : Nat} {rest : List Bool} {s : State} (hk : k < 4)
    (h : s.answers = List.replicate k true ++ false :: rest) :
    sendPage p s = .ended (sentUpTo k (pageFrames s p) rest s) := by
  rw [sendPage_eq_emitFrames, emitFrames_false hk h]
  rfl

/-- SEND_PAGE of each page of a list in turn, up to the first frame answered false (R185). -/
def sendPages : List Nat → State → Progress
  | [], s => .running s
  | p :: ps, s => (sendPage p s).andThen (sendPages ps)

/-- The page loop sends the pages to send: sending one clears no flag of a page still to come. -/
theorem flushPages_eq_sendPages {ps : List Nat} (hps : ps.Nodup) (s : State) :
    flushPages ps s = sendPages (ps.filter (pageIsSent s.cfg s.dirty)) s := by
  induction ps generalizing s with
  | nil => rfl
  | cons p ps ih =>
    obtain ⟨hp, hps⟩ := List.nodup_cons.mp hps
    by_cases hsent : pageIsSent s.cfg s.dirty p = true
    · rw [flushPages, if_pos hsent, List.filter_cons_of_pos hsent, sendPages]
      cases hpage : sendPage p s with
      | ended u => rfl
      | running u =>
        obtain ⟨hcfg, hdirty⟩ := frame_of_sendPage_running hpage
        rw [andThen_running, andThen_running, ih hps, hcfg, hdirty]
        congr 1
        refine List.filter_congr fun q hq => ?_
        have hne : q ≠ p := fun h => hp (h ▸ hq)
        simp [pageIsSent, clearDirty_at, hne]
    · rw [flushPages, if_neg hsent, List.filter_cons_of_neg hsent, ih hps]

/-- DIRTY with the flags of some pages cleared. -/
def clearPages (ps : List Nat) (d : Byte) : Byte := ps.foldl clearDirty d

theorem clearPages_at (ps : List Nat) (d : Byte) (q : Nat) :
    dirtyAt (clearPages ps d) q = (dirtyAt d q && !decide (q ∈ ps)) := by
  induction ps generalizing d with
  | nil => simp [clearPages]
  | cons p ps ih =>
    rw [clearPages, List.foldl_cons, ← clearPages, ih, clearDirty_at]
    simp [Bool.and_assoc]

theorem sendPages_true {ps : List Nat} {rest : List Bool} {s : State}
    (h : s.answers = List.replicate (4 * ps.length) true ++ rest) :
    sendPages ps s =
      .running (sentAll (ps.flatMap (pageFrames s)) rest { s with dirty := clearPages ps s.dirty }) := by
  induction ps generalizing s with
  | nil =>
    obtain rfl : rest = s.answers := by simpa using h.symm
    simp [sendPages, sentAll, acknowledged, clearPages]
  | cons p ps ih =>
    rw [List.length_cons, Nat.mul_succ, Nat.add_comm, List.replicate_add, List.append_assoc] at h
    rw [sendPages, sendPage_true h, andThen_running, ih rfl, List.flatMap_cons, ← sentAll_sentAll]
    rfl

/-- Frame `k` belongs to page number `k / 4` of those to send; the pages before it have been sent whole. -/
theorem sendPages_false {ps : List Nat} {k : Nat} {rest : List Bool} {s : State}
    (hk : k < 4 * ps.length) (h : s.answers = List.replicate k true ++ false :: rest) :
    sendPages ps s = .ended (sentUpTo k (ps.flatMap (pageFrames s)) rest
      { s with dirty := clearPages (ps.take (k / 4)) s.dirty }) := by
  induction ps generalizing s k with
  | nil => cases hk
  | cons p ps ih =>
    rw [sendPages, List.flatMap_cons]
    rcases Nat.lt_or_ge k 4 with hlt | hge
    · rw [sendPage_false hlt h, andThen_ended, sentUpTo_append hlt, Nat.div_eq_of_lt hlt]
      rfl
    · obtain ⟨j, rfl⟩ := Nat.exists_eq_add_of_le hge
      rw [List.replicate_add, List.append_assoc] at h
      rw [List.length_cons] at hk
      rw [sendPage_true h, andThen_running, ih (by omega) rfl,
        Nat.add_div_left j (by decide), List.take_succ_cons]
      exact congrArg Progress.ended (sentUpTo_sentAll j (pageFrames s p) (ps.flatMap (pageFrames s)) _ rest
        { s with dirty := clearPages (p :: ps.take (j / 4)) s.dirty })

/-! ## FLUSH -/

theorem sentPages_eq (s : State) :
    sentPages s = (List.range s.cfg.pages).filter (pageIsSent s.cfg s.dirty) := by
  refine List.filter_congr fun p _ => ?_
  cases h : dirtyAt s.dirty p <;> simp [pageIsSent, h]

theorem exec_cmdFlush_of_initialized_or_streaming {s : State}
    (hc : s.ctl = .initialized ∨ s.ctl = .streaming) :
    exec .cmdFlush s = .next ((sendPages (sentPages s) s).complete fun u =>
      finish .ok 0x00 { u with ctl := .streaming }) := by
  have hl : legalIn .cmdFlush s.ctl = true := by rcases hc with hc | hc <;> rw [hc] <;> rfl
  rw [exec, execFlush, guarded_legal hl, flushPages_eq_sendPages List.nodup_range, ← sentPages_eq]

/-- Every dirty page is among those FLUSH sends, so no flag is left. -/
theorem clearPages_sentPages {s : State} (hinv : CoreInv s) : clearPages (sentPages s) s.dirty = 0x00 := by
  refine dirty_ext fun p => ?_
  rw [clearPages_at]
  cases hp : dirtyAt s.dirty p with
  | false => simp [dirtyAt]
  | true =>
    have hlt : p < s.cfg.pages := by
      by_contra hge
      have hclear := (dirtyInRange_iff hinv.build s.dirty).mp hinv.dirtyInRange p (Nat.le_of_not_lt hge)
      rw [hp] at hclear
      cases hclear
    have hmem : p ∈ sentPages s := List.mem_filter.mpr ⟨List.mem_range.mpr hlt, by simp [hp]⟩
    simp [hmem, dirtyAt]

/-- Settles O30: FLUSH is the frames of the pages to send, page by page. -/
theorem flushSendsTheDirtyPages : Obligations.FlushSendsTheDirtyPages := by
  refine ⟨fun s answers hinv hc ha => ?_, fun s k answers _ hc hk ha => ?_, fun s hi hs => ?_, rfl⟩
  · rw [exec_cmdFlush_of_initialized_or_streaming hc, sendPages_true ha, clearPages_sentPages hinv]
    rfl
  · refine ⟨clearPages ((sentPages s).take (k / 4)) s.dirty, ?_, clearPages_at _ s.dirty⟩
    rw [exec_cmdFlush_of_initialized_or_streaming hc, sendPages_false hk ha]
    rfl
  · exact stateError_of_not_legalIn fun hl => (legalIn_cmdFlush hl).elim hi hs

end Sys2Proof.Machine
end

section
/-! PROOFS. Errors (60_exceptions.md R222 to R224): the state check command by command, the exact next state of
a non-fatal error, and the frames a command has sent when a fatal error ends it. -/

namespace Sys2Proof.Machine

open Sys2Proof.Safety Sys2Proof.Claims

/-! ## The state check -/

/-- A command whose entry in R222's table is "yes" does not return STATE_ERROR. -/
theorem Answers.status_ne_of_legalFor {s t : State} {i : Instr} {r : Response} (h : Answers s i r t)
    (hl : legalFor i s.ctl = true) : r.status ≠ 0x11 := by
  cases h with
  | stateError hno => exact absurd hl (Bool.eq_false_iff.mp hno)
  | opened | acquireFailed | initDone | initFailed | flushDone | flushFailed | closed | drawn | byteRead
  | byteOutOfRange | regRead | regOutOfRange => simp

/-- Settles O23: every command runs behind its row of R222's table, and only the check returns 0x11. -/
theorem stateErrorExactlyOutsideTheTable : Obligations.StateErrorExactlyOutsideTheTable := by
  refine ⟨fun i s hl => ?_, fun i s hl => ?_⟩
  · rw [legalFor_eq_legalIn] at hl
    exact stateError_of_not_legalIn (Bool.eq_false_iff.mp hl)
  · obtain ⟨t, ht⟩ := exec_answers i s
    obtain ⟨r, ha⟩ := answers_of_exec ht
    exact ⟨t, r, ht, ha.hostOut_eq, ha.status_ne_of_legalFor hl⟩

/-! ## Non-fatal errors -/

/-- A command that returns a non-fatal error returns no data and writes LAST_STATUS at most (R223). -/
theorem Answers.eq_of_nonFatal {s t : State} {i : Instr} {r : Response} (h : Answers s i r t)
    (hr : r.status = 0x10 ∨ r.status = 0x11 ∨ r.status = 0x12) :
    r.data = 0x00 ∧ t = { s with lastStatus := t.lastStatus, hostOut := s.hostOut ++ [r] } := by
  cases h with
  | stateError | byteOutOfRange | regOutOfRange => exact ⟨rfl, rfl⟩
  | opened | acquireFailed | initDone | initFailed | flushDone | flushFailed | closed | drawn | byteRead
  | regRead => simp at hr

/-- Settles O24: an illegal packet by R223, a command by the three ways it returns a non-fatal error. -/
theorem nonFatalErrorsArePrecise : Obligations.NonFatalErrorsArePrecise := by
  intro s t p rest r htake hstep hout hr
  rcases packet_cases htake hstep hout with ⟨e, _, rfl, rfl⟩ | ⟨i, hd, ha⟩
  · exact ⟨rfl, illegalPacket_eq p _⟩
  · obtain ⟨hdata, ht⟩ := ha.eq_of_nonFatal hr
    refine ⟨hdata, ?_⟩
    rw [ht, ha.lastStatus_eq, head_of_decode hd]
    simp only [Option.some.injEq, opcodeByte_eq_readReg_iff]

/-! ## Fatal errors -/

theorem OnlySends.cfg_eq {s u : State} (h : OnlySends s u) : u.cfg = s.cfg := by rw [h.eq_update]
theorem OnlySends.fb_eq {s u : State} (h : OnlySends s u) : u.fb = s.fb := by rw [h.eq_update]

/-- From `s` to `u` only frames were sent, all of them were answered true, and DIRTY flags were only
cleared. -/
structure Acknowledges (s u : State) : Prop where
  sends : OnlySends s u
  log : ∃ fs, u.transport = s.transport ++ acknowledged fs
  clears : ∀ q, dirtyAt u.dirty q = true → dirtyAt s.dirty q = true

namespace Acknowledges

theorem refl (s : State) : Acknowledges s s := ⟨.refl s, ⟨[], by simp [acknowledged]⟩, fun _ h => h⟩

theorem trans {s u v : State} (h : Acknowledges s u) (h' : Acknowledges u v) : Acknowledges s v := by
  obtain ⟨fs, hfs⟩ := h.log
  obtain ⟨gs, hgs⟩ := h'.log
  exact ⟨h.sends.trans h'.sends, ⟨fs ++ gs, by simp [hgs, hfs, acknowledged]⟩,
    fun q hq => h.clears q (h'.clears q hq)⟩

/-- One frame, answered true. -/
theorem frame (f : List Byte) (s : State) : Acknowledges s (afterRequest (.frame f true) s) :=
  ⟨rfl, ⟨[f], rfl⟩, fun _ h => h⟩

/-- SEND_PAGE clears the flag of the page it has sent (R186). -/
theorem clearFlag (p : Nat) (s : State) : Acknowledges s { s with dirty := clearDirty s.dirty p } := by
  refine ⟨rfl, ⟨[], by simp [acknowledged]⟩, fun q hq => ?_⟩
  rw [clearDirty_at, Bool.and_eq_true] at hq
  exact hq.1

end Acknowledges

/-- A command that began at `s` has had all its frames answered true; if it has ended, one more frame was
answered false, and it was the last (R171, R224). -/
def Progress.StopsAtFalse (s : State) : Progress → Prop
  | .running u => Acknowledges s u
  | .ended u => ∃ v f, Acknowledges s v ∧
      u = enterFailed .transmissionFailure (afterRequest (.frame f false) v)

theorem emit_stopsAtFalse (f : List Byte) (s : State) : (emit f s).StopsAtFalse s := by
  rcases emit_cases f s with ⟨_, he⟩ | ⟨_, he⟩ <;> rw [he]
  · exact .frame f s
  · exact ⟨s, f, .refl s, rfl⟩

/-- What is said of a command from a later point on holds from its beginning. -/
theorem Acknowledges.stopsAtFalse {s u : State} {p : Progress} (h : Acknowledges s u)
    (hp : p.StopsAtFalse u) : p.StopsAtFalse s := by
  cases p with
  | running w => exact h.trans hp
  | ended w =>
    obtain ⟨v, f, hv, rfl⟩ := hp
    exact ⟨v, f, h.trans hv, rfl⟩

theorem andThen_stopsAtFalse {s : State} {p : Progress} {k : State → Progress} (hp : p.StopsAtFalse s)
    (hk : ∀ u, (k u).StopsAtFalse u) : (p.andThen k).StopsAtFalse s := by
  cases p with
  | running u => exact Acknowledges.stopsAtFalse hp (hk u)
  | ended u => exact hp

theorem emitCmds_stopsAtFalse (bs : List Byte) (s : State) : (emitCmds bs s).StopsAtFalse s := by
  induction bs generalizing s with
  | nil => exact .refl s
  | cons b bs ih => exact andThen_stopsAtFalse (emit_stopsAtFalse _ s) ih

theorem sendPage_stopsAtFalse (p : Nat) (s : State) : (sendPage p s).StopsAtFalse s :=
  andThen_stopsAtFalse (emitCmds_stopsAtFalse _ s) fun u =>
    andThen_stopsAtFalse (emit_stopsAtFalse _ u) (.clearFlag p)

theorem flushPages_stopsAtFalse (ps : List Nat) (s : State) : (flushPages ps s).StopsAtFalse s := by
  induction ps generalizing s with
  | nil => exact .refl s
  | cons p ps ih =>
    rw [flushPages]
    split
    · exact andThen_stopsAtFalse (sendPage_stopsAtFalse p s) ih
    · exact ih s

/-- The two fatal errors: the ACQUIRE answered false, and a frame answered false after frames that were all
answered true (R224). -/
theorem Answers.fatal_cases {s t : State} {i : Instr} {r : Response} (h : Answers s i r t)
    (hr : r.status = 0x01 ∨ r.status = 0x02) :
    (r = ⟨0x01, 0x00⟩ ∧ t = enterFailed .resourceUnavailable (afterRequest (.acquire false) s)) ∨
    (r = ⟨0x02, 0x00⟩ ∧ ∃ v f, Acknowledges s v ∧
      t = enterFailed .transmissionFailure (afterRequest (.frame f false) v)) := by
  cases h with
  | acquireFailed => exact .inl ⟨rfl, rfl⟩
  | initFailed _ hu =>
    have hstop := emitCmds_stopsAtFalse initSeq s
    rw [hu] at hstop
    exact .inr ⟨rfl, hstop⟩
  | flushFailed _ hu =>
    have hstop := flushPages_stopsAtFalse (List.range s.cfg.pages) s
    rw [hu] at hstop
    exact .inr ⟨rfl, hstop⟩
  | stateError | opened | initDone | flushDone | closed | drawn | byteRead | byteOutOfRange | regRead
  | regOutOfRange => simp at hr

/-- Settles O25: an illegal packet is no fatal error, and a command enters FAILED in the two ways of R224. -/
theorem fatalErrorsEnterFailed : Obligations.FatalErrorsEnterFailed := by
  intro s t p rest r htake hstep hout hr
  rcases packet_cases htake hstep hout with ⟨e, _, rfl, _⟩ | ⟨i, _, ha⟩
  · simp at hr
  · rcases ha.fatal_cases hr with ⟨rfl, rfl⟩ | ⟨rfl, v, f, ⟨hsends, ⟨fs, hlog⟩, hclears⟩, rfl⟩
    · exact ⟨rfl, rfl, rfl, rfl, rfl, rfl, rfl, fun _ h => h, [], .acquire false, by simp [acknowledged],
        by simp⟩
    · exact ⟨rfl, rfl, rfl, rfl, hsends.fb_eq, hsends.transportHeld_eq, hsends.cfg_eq, hclears, fs,
        .frame f false, by simp [hlog], by simp⟩

end Sys2Proof.Machine
end

section
/-! PROOFS. The packet of each command (30_encoding.md part A): decoding the packet a command encodes to, and
encoding the command a packet decodes to. -/

namespace Sys2Proof

open Sys2Proof.Claims

/-! ## From a command to its packet and back -/

/-- Settles O1: each command's packet, put together from its fields, is read field by field. -/
theorem encodedCommandDecodesToItself : Obligations.EncodedCommandDecodesToItself := by
  intro i hwf
  cases i with
  | cmdOpen | cmdInit | cmdFlush | cmdClose | clear | readReg => rfl
  | setPixel x y on => exact (decode_setPixel x y _).trans (by rw [decodeOn_onByte]; rfl)
  | fillRect x y w h on => exact (decode_fillRect x y w h _).trans (by rw [decodeOn_onByte]; rfl)
  | drawLine x0 y0 x1 y1 on => exact (decode_drawLine x0 y0 x1 y1 _).trans (by rw [decodeOn_onByte]; rfl)
  | drawCircle cx cy r on => exact (decode_drawCircle cx cy r _).trans (by rw [decodeOn_onByte]; rfl)
  | drawGlyph x y on cols =>
    obtain ⟨-, -, hdecodes, -⟩ := Machine.drawGlyphBlitsTheSetBits
    simp only [bytesOf_eq_halfBytes] at hdecodes
    exact hdecodes x y on cols (by simpa [Instr.wf] using hwf)
  | drawText x y scale chars =>
    obtain ⟨-, -, hdecodes, -⟩ := Machine.drawTextLightsTheScaledGlyphs
    simp only [bytesOf_eq_halfBytes] at hdecodes
    obtain ⟨hscale, hlen⟩ : scale ≠ 0 ∧ chars.length ≤ 255 := by simpa [Instr.wf] using hwf
    exact hdecodes x y scale chars hscale hlen
  | readByte index => exact congrArg (fun h => Except.ok (Instr.readByte h)) (half_of_bytes index)

/-! ## From a packet to its command and back -/

/-- A packet is its first bytes, read one by one, and the rest. -/
theorem packet_eq_bytes_append_drop {p : List Byte} {n : Nat} (h : n ≤ p.length) :
    p = (List.range n).map (byteAt p) ++ p.drop n := by
  have htake : (List.range n).map (byteAt p) = p.take n := by
    refine List.ext_getElem (by simp [h]) fun k _ hk => ?_
    have hlt : k < p.length := Nat.lt_of_lt_of_le hk (List.length_take_le' n p)
    simp [byteAt, List.getD_eq_getElem?_getD, hlt]
  rw [htake, List.take_append_drop]

/-- A packet of a fixed length is its bytes, read one by one. -/
theorem packet_eq_bytes {p : List Byte} {n : Nat} (h : p.length = n) :
    p = (List.range n).map (byteAt p) := by
  have hp := packet_eq_bytes_append_drop h.ge
  rwa [List.drop_eq_nil_of_le h.le, List.append_nil] at hp

/-- The bytes of a 16-bit field are those it was read from (R71). -/
@[simp] theorem halfBytes_halfAt (p : List Byte) (k : Nat) :
    halfBytes (halfAt p k) = [byteAt p k, byteAt p (k + 1)] := by
  have hlow : (halfAt p k).extractLsb' 0 8 = byteAt p k := BitVec.extractLsb'_append_eq_right
  have hhigh : (halfAt p k).extractLsb' 8 8 = byteAt p (k + 1) := BitVec.extractLsb'_append_eq_left
  rw [halfBytes, hlow, hhigh]

/-- A command read with the field on is built from the value whose byte the field holds. -/
theorem onByte_of_map_decodeOn {b : Byte} {f : Bool → Instr} {i : Instr}
    (h : (decodeOn b).map f = .ok i) : ∃ on, onByte on = b ∧ i = f on := by
  cases hon : decodeOn b with
  | error e => simp [hon, Except.map] at h
  | ok on => exact ⟨on, onByte_of_decodeOn hon, by simpa [hon, Except.map] using h.symm⟩

/-- A packet with a count byte is its first seven bytes and as many more as the count byte says (R75). -/
theorem counted_packet_eq {o : Opcode} {p : List Byte} (ho : o.hasCount = true)
    (hlen : p.length = o.length (byteAt p 6)) :
    (p.drop 7).length = (byteAt p 6).toNat ∧ p = (List.range 7).map (byteAt p) ++ p.drop 7 := by
  have hlength : p.length = 7 + (byteAt p 6).toNat := by
    cases o with
    | drawGlyph | drawText => exact hlen
    | _ => cases ho
  exact ⟨by rw [List.length_drop]; omega, packet_eq_bytes_append_drop (by omega)⟩

/-- The fields read from a packet of the right length are encoded to that packet. -/
theorem encode_of_decodeFields {o : Opcode} {p : List Byte} {i : Instr} (hcode : byteAt p 0 = o.code)
    (hlen : p.length = o.length (byteAt p 6)) (h : decodeFields o p = .ok i) :
    encode i = p ∧ i.wf = true := by
  cases o with
  | cmdOpen | cmdInit | cmdFlush | cmdClose | clear | readByte | readReg =>
    cases h
    refine ⟨.trans ?_ (packet_eq_bytes hlen).symm, rfl⟩
    simp [encode, Opcode.length, List.range_succ, hcode]
  | setPixel | fillRect | drawLine | drawCircle =>
    obtain ⟨on, hon, rfl⟩ := onByte_of_map_decodeOn h
    refine ⟨.trans ?_ (packet_eq_bytes hlen).symm, rfl⟩
    simp [encode, Opcode.length, List.range_succ, hcode, hon]
  | drawGlyph =>
    obtain ⟨hcount, hp⟩ := counted_packet_eq rfl hlen
    rw [decodeFields] at h
    split at h
    next hn =>
      obtain ⟨on, hon, rfl⟩ := onByte_of_map_decodeOn h
      refine ⟨.trans ?_ hp.symm, ?_⟩
      · simp [encode, List.range_succ, hcode, hon, hcount]
      · rcases hn with hn | hn <;> simp [Instr.wf, hcount, hn]
    · cases h
  | drawText =>
    obtain ⟨hcount, hp⟩ := counted_packet_eq rfl hlen
    rw [decodeFields] at h
    split at h
    · cases h
    next hscale =>
      cases h
      refine ⟨.trans ?_ hp.symm, ?_⟩
      · simp [encode, List.range_succ, hcode, hcount]
      · exact Bool.and_eq_true_iff.mpr ⟨bne_iff_ne.mpr hscale, by simp [hcount]; omega⟩

/-- Settles O2: a packet that decodes has its opcode's length, and its fields are encoded to its bytes. -/
theorem decodedPacketIsItsCommandsEncoding : Obligations.DecodedPacketIsItsCommandsEncoding := by
  intro p i h
  obtain ⟨o, rest, rfl, -, hlen, hfields⟩ := checks_of_decode h
  exact encode_of_decodeFields rfl hlen hfields

/-! ## Reserved field values -/

/-- A byte that R73's table gives a length is a byte of R72's map, and its length is the decoder's. -/
theorem exists_code_of_packetLength {b count : Byte} {n : Nat} (h : packetLength b count = some n) :
    ∃ o : Opcode, o.code = b ∧ o.length count = n := by
  have hb : ¬ ReservedOpcode b := by
    intro hres
    unfold ReservedOpcode at hres
    unfold packetLength at h
    split at h
    case h_14 => cases h
    all_goals omega
  obtain ⟨o, rfl⟩ := code_of_not_reservedOpcode hb
  exact ⟨o, rfl, by simpa [packetLength_code] using h⟩

/-- A packet of a length R75 allows has passed the checks of R221 but that of its fields. -/
theorem decode_of_lengthAgrees {p : List Byte} (h : LengthAgrees p) :
    ∃ o : Opcode, p[0]? = some o.code ∧ p.length = o.length (byteAt p 6) ∧
      decode p = decodeFields o p := by
  obtain ⟨b, rest, rfl, hlen⟩ := h
  obtain ⟨o, rfl, hneed, hseven⟩ : ∃ o : Opcode, o.code = b ∧
      o.length (byteAt (b :: rest) 6) = (b :: rest).length ∧
      (o.hasCount = true → 7 ≤ (b :: rest).length) := by
    split at hlen
    next hb =>
      obtain ⟨count, hcount, hlen⟩ := hlen
      obtain ⟨o, rfl, hneed⟩ := exists_code_of_packetLength hlen
      obtain ⟨hsix, -⟩ := List.getElem?_eq_some_iff.mp hcount
      exact ⟨o, rfl, by rwa [byteAt, List.getD_eq_getElem?_getD, hcount], fun _ => hsix⟩
    next hb =>
      obtain ⟨o, rfl, hneed⟩ := exists_code_of_packetLength hlen
      rw [opcodeByte_eq_counted_iff] at hb
      exact ⟨o, rfl, by rw [length_of_not_hasCount hb _ 0x00, hneed], fun hc => absurd hc hb⟩
  refine ⟨o, rfl, hneed.symm, ?_⟩
  simp only [decode, ofByte_code]
  rw [if_neg fun hshort => Nat.not_lt.mpr (hseven hshort.1) hshort.2, if_neg (not_not.mpr hneed.symm)]

/-- The field on decodes exactly for the two values of R77. -/
theorem exists_map_decodeOn_iff {b : Byte} {f : Bool → Instr} :
    (∃ i, (decodeOn b).map f = .ok i) ↔ b = 0x00 ∨ b = 0x01 := by
  rw [map_decodeOn]
  split
  next h => simp [h]
  · split
    next h => simp [h]
    next h0 h1 => exact iff_of_false (by simp) (not_or.mpr ⟨h0, h1⟩)

theorem getElem?_eq_byteAt {p : List Byte} {k : Nat} (h : k < p.length) : p[k]? = some (byteAt p k) := by
  rw [byteAt, List.getD_eq_getElem?_getD, List.getElem?_eq_getElem h, Option.getD_some]

/-- Settles O6: with the length right only the fields are left, and each opcode's reserved values are those of
R77. -/
theorem onlyReservedFieldsAreIllegal : Obligations.OnlyReservedFieldsAreIllegal := by
  intro p h
  obtain ⟨o, hcode, hlen, hdecode⟩ := decode_of_lengthAgrees h
  rw [hdecode, ReservedField, hcode]
  cases o with
  | cmdOpen | cmdInit | cmdFlush | cmdClose | clear | readByte | readReg =>
    simp [Opcode.code, decodeFields]
  | setPixel | fillRect | drawLine | drawCircle =>
    rw [Opcode.length] at hlen
    simp [Opcode.code, decodeFields, exists_map_decodeOn_iff, byteAt, hlen, or_iff_not_imp_left]
  | drawGlyph =>
    rw [Opcode.length] at hlen
    rw [decodeFields, getElem?_eq_byteAt (k := 5) (by omega), getElem?_eq_byteAt (k := 6) (by omega)]
    split
    next hn =>
      simpa [Opcode.code, exists_map_decodeOn_iff, ← or_iff_not_imp_left] using fun _ => hn
    next hn => simpa [Opcode.code] using fun _ => not_or.mp hn
  | drawText =>
    rw [Opcode.length] at hlen
    rw [decodeFields, getElem?_eq_byteAt (k := 5) (by omega)]
    split
    next hscale => simp [Opcode.code, hscale]
    next hscale => simpa [Opcode.code] using hscale

/-! ## Packets written out -/

/-- Settles O3: each packet is read byte by byte. -/
theorem packetsOfTheTableDecode : Obligations.PacketsOfTheTableDecode := by
  unfold Obligations.PacketsOfTheTableDecode
  decide

end Sys2Proof
end

section
/-! PROOFS. One step of the core, whatever it takes off the host port (20_memory.md R55, 30_encoding.md R70), and
the moves of STATE (42_controller.md R197, 60_exceptions.md R229). -/

namespace Sys2Proof.Machine

open Sys2Proof.Safety Sys2Proof.Claims

/-! ## What a step takes -/

theorem step_of_hostIn_nil {s : State} (hl : s.cfg.Legal) (hin : s.hostIn = []) : step s = .next s := by
  simp only [step, if_pos hl, fetch, hin]

theorem step_of_reset {s : State} {rest : List HostInput} (hl : s.cfg.Legal)
    (hin : s.hostIn = .reset :: rest) : step s = .next (resetEvent { s with hostIn := rest }) := by
  simp only [step, if_pos hl, fetch, hin]

/-- Settles O7: the step of a packet, by what it decodes to. -/
theorem stepRunsTheDecodedCommand : Obligations.StepRunsTheDecodedCommand := by
  intro s p rest i htake hd
  rw [step_packet htake.1 htake.2, hd]

/-- Settles O8: a packet with a decode error names no command. -/
theorem undecodedPacketIsIllegalCommand : Obligations.UndecodedPacketIsIllegalCommand := by
  intro s p rest e htake hd
  exact illegalCommand_of_not_decode htake fun i hi => by rw [hd] at hi; cases hi

/-- Settles O9: the build is checked first, and with no input a step waits. -/
theorem stepWaitsAndRefusesIllegalBuilds : Obligations.StepWaitsAndRefusesIllegalBuilds :=
  ⟨fun _ hl hin => step_of_hostIn_nil hl hin, fun _ hl => if_neg hl⟩

/-- Settles O10: waiting, a reset, an illegal packet and every command answer. -/
theorem everyStepOfALegalBuildAnswers : Obligations.EveryStepOfALegalBuildAnswers := by
  intro s hl
  cases hin : s.hostIn with
  | nil => exact ⟨s, step_of_hostIn_nil hl hin⟩
  | cons input rest =>
    cases input with
    | reset => exact ⟨_, step_of_reset hl hin⟩
    | packet p =>
      rw [step_packet hl hin]
      cases decode p with
      | error e => exact ⟨_, rfl⟩
      | ok i => exact exec_answers i _

/-- Settles O11: the step of a reset is the reset event. -/
theorem resetEventRestoresTheResetValues : Obligations.ResetEventRestoresTheResetValues :=
  fun _ _ hl hin => ⟨_, _, step_of_reset hl hin⟩

/-- Settles O15: a step sends the frames of one build. -/
theorem noStepChangesTheBuild : Obligations.NoStepChangesTheBuild :=
  fun _ _ hstep => (step_sendsLegalFrames hstep).1

/-! ## The moves of STATE -/

/-- A drawing command that completes stays in STATE, where there is a framebuffer (R197). -/
theorem moves_of_isDrawing {i : Instr} {c : ControllerState} (hi : isDrawing i = true)
    (hf : c.fbValid = true) : Moves 0x00 c c i := by
  cases i with
  | clear | setPixel | fillRect | drawLine | drawCircle | drawGlyph | drawText => exact ⟨rfl, hf, rfl⟩
  | cmdOpen | cmdInit | cmdFlush | cmdClose | readByte | readReg => cases hi

/-- Whatever a command answers, STATE moves along a row of R197's table, or stays at a non-fatal error. -/
theorem Answers.moves {s t : State} {i : Instr} {r : Response} (h : Answers s i r t) :
    if r.status = 0x10 ∨ r.status = 0x11 ∨ r.status = 0x12 then t.ctl = s.ctl
    else Moves r.status s.ctl t.ctl i := by
  cases h with
  | stateError | byteOutOfRange | regOutOfRange => simp
  | opened hc | acquireFailed hc | initDone hc | initFailed hc | flushDone hc | flushFailed hc =>
    simp [Moves, hc]
  | closed | regRead => simp [Moves]
  | drawn hi hf => simpa using moves_of_isDrawing hi hf
  | byteRead hf => simp [Moves, hf]

/-- Settles O21: the command answers one response, and its answer fixes the move. -/
theorem stateMovesOnlyAsTheTableSays : Obligations.StateMovesOnlyAsTheTableSays := by
  intro s t i r hexec hout
  obtain ⟨r', ha⟩ := answers_of_exec hexec
  obtain rfl : r' = r := by simpa [ha.hostOut_eq] using hout
  exact ha.moves

/-- In FAILED only CLOSE and READ_REG pass the state check, so only CLOSE moves STATE and nothing fails
(R222, R229). -/
theorem Answers.of_failed {s t : State} {i : Instr} {r : Response} (h : Answers s i r t)
    (hc : s.ctl = .failed) :
    t.ctl = (if i = .cmdClose then .closed else .failed) ∧ r.status ≠ 0x01 ∧ r.status ≠ 0x02 := by
  cases h with
  | stateError hl =>
    have hne : i ≠ .cmdClose := by rintro rfl; cases hl
    simp [hne, hc]
  | closed | regRead | regOutOfRange => simp [hc]
  | opened hc' | acquireFailed hc' | initDone hc' | initFailed hc' | flushDone hc' | flushFailed hc' =>
    simp [hc] at hc'
  | drawn _ hf | byteRead hf | byteOutOfRange hf => rw [hc] at hf; cases hf

/-- Settles O22: an illegal packet leaves STATE, a command does as R229 says. -/
theorem onlyCloseLeavesFailed : Obligations.OnlyCloseLeavesFailed := by
  intro s t p rest r hc htake hstep hout
  rcases packet_cases htake hstep hout with ⟨e, hd, rfl, rfl⟩ | ⟨i, hd, ha⟩
  · simp [illegalPacket_eq, hd, hc]
  · simpa [hd] using ha.of_failed hc

/-- Settles O27: a drawing command replaces the canvas, or fails the state check. -/
theorem drawingChangesOnlyTheFramebuffer : Obligations.DrawingChangesOnlyTheFramebuffer := by
  intro i s t hi hexec
  obtain ⟨r, ha⟩ := answers_of_exec hexec
  cases ha with
  | stateError | drawn => rfl
  | opened | acquireFailed | initDone | initFailed | flushDone | flushFailed | closed | byteRead
  | byteOutOfRange | regRead | regOutOfRange => cases hi

end Sys2Proof.Machine
end

section
/-! PROOFS. Writes to FB (40_framebuffer.md R101, R102) and what every drawing command does with them, said once:
it paints places that depend on its operands and the build only. -/

namespace Sys2Proof.Machine

open Sys2Proof.Safety Sys2Proof.Claims

/-! ## Single writes -/

/-- Settles O36: the byte written is read back, and its page has one of the eight flags. -/
theorem memWriteSetsDirtyOnChange : Obligations.MemWriteSetsDirtyOnChange := by
  intro cfg c i v hl hc hi
  refine ⟨memWrite_wf cfg i v c hc, memWrite_read cfg hc i v, fun p => ?_⟩
  have hpage := page_lt_eight hl hi
  rw [memWrite]
  split
  next hv =>
    have hp : p = i / cfg.width → p < 8 := by rintro rfl; exact hpage
    simp only [setDirty_at]
    grind
  next hv => simp [hv]

/-- Settles O37: PLOT paints the place of its point, and only bytes with a painted place change. -/
theorem plotChangesOneLane : Obligations.PlotChangesOneLane := by
  intro cfg c x y on hl hc
  have hpaint := plot_paints hl on hc (x, y)
  have hplace (i k : Nat) : Plotted cfg [(x, y)] i k ↔
      inBounds cfg x y ∧ i = pixelIndex cfg x.toNat y.toNat ∧ k = pixelBit y.toNat := by
    simp only [Plotted, List.mem_singleton, exists_eq_left]
  split
  next hb =>
    refine ⟨fun i k => ?_, fun p => ?_⟩
    · split
      next hik => exact hpaint.inside i k ((hplace i k).mpr ⟨hb, hik⟩)
      next hik => exact hpaint.outside i k fun h => hik ((hplace i k).mp h).2
    · have hpage {i : Nat} (hi : (plot cfg on c (x, y)).fb.read i ≠ c.fb.read i) :
          i / cfg.width = y.toNat / 8 := by
        by_contra hne
        refine hi (hpaint.read_eq_of_forall_not fun k _ hL => hne ?_)
        obtain ⟨-, rfl, -⟩ := (hplace i k).mp hL
        exact pixelIndex_div (inBounds_toNat hb).1
      rw [hpaint.flags]
      refine or_congr_right ⟨?_, ?_⟩
      · rintro ⟨i, rfl, hi⟩
        exact ⟨hpage hi, i, hi⟩
      · rintro ⟨rfl, i, hi⟩
        exact ⟨i, hpage hi, hi⟩
  next hb => exact if_neg hb

/-! ## What a drawing command paints -/

namespace Paints

variable {cfg : Config} {on : Bool} {L : Nat → Nat → Prop} {c d : Canvas}

/-- What was painted once is painted again without a change (R137). -/
theorem again (h : Paints cfg on L c d) : Paints cfg on L d d where
  inside := h.inside
  outside _ _ _ := rfl
  flags p := by simp

/-- Painting in FB sets no reserved bit of DIRTY (R29). -/
theorem dirtyInRange (h : Paints cfg on L c d) (hl : cfg.Legal)
    (hrange : ∀ i k, L i k → i < cfg.fbSize) (hc : c.dirty &&& pagesMask cfg = c.dirty) :
    d.dirty &&& pagesMask cfg = d.dirty := by
  rw [dirtyInRange_iff hl] at hc ⊢
  intro p hp
  refine Bool.eq_false_iff.mpr fun hset => ?_
  rcases (h.flags p).mp hset with hset | ⟨i, rfl, hchanged⟩
  · simp [hc p hp] at hset
  · refine hchanged (h.read_eq_of_forall_not fun k _ hL => ?_)
    exact absurd (Nat.div_lt_of_lt_mul (hrange i k hL)) (Nat.not_lt.mpr hp)

/-- A page whose flag is clear afterwards had it clear before, and keeps its bytes (R25). -/
theorem clean (h : Paints cfg on L c d) {p : Nat} (hp : dirtyAt d.dirty p = false) :
    dirtyAt c.dirty p = false ∧ pageBytes cfg d.fb p = pageBytes cfg c.fb p := by
  have hflags := mt (h.flags p).mpr (Bool.eq_false_iff.mp hp)
  obtain ⟨hc, hsame⟩ := not_or.mp hflags
  refine ⟨Bool.eq_false_iff.mpr hc, List.map_congr_left fun column hcolumn => ?_⟩
  have hlt : column < cfg.width := List.mem_range.mp hcolumn
  by_contra hne
  refine hsame ⟨p * cfg.width + column, ?_, hne⟩
  rw [Nat.add_comm, Nat.add_mul_div_right _ _ (Nat.zero_lt_of_lt hlt), Nat.div_eq_of_lt hlt, Nat.zero_add]

end Paints

/-- FB is canonical and lists no index from WIDTH*PAGES up (R24). -/
def Canvas.InFb (cfg : Config) (c : Canvas) : Prop := c.fb.wf ∧ ∀ cell ∈ c.fb, cell.1 < cfg.fbSize

theorem plotAll_inFb {cfg : Config} (hl : cfg.Legal) (on : Bool) (pts : List (Int × Int)) {c : Canvas}
    (hc : c.InFb cfg) : (plotAll cfg on pts c).InFb cfg :=
  plotAll_keeps (Canvas.InFb cfg) cfg on pts c hc fun d hd p _ =>
    ⟨plot_wf cfg on d p hd.1, plot_inRange hl on d p hd.2⟩

theorem clearBytes_inFb {cfg : Config} {c : Canvas} (hc : c.InFb cfg) :
    (clearBytes cfg cfg.fbSize c).InFb cfg :=
  ⟨clearBytes_wf cfg _ c hc.1, clearBytes_inRange cfg _ c le_rfl hc.2⟩

/-- Command `i` of build `cfg` paints the places of `L` with the value `on`: in every state of the build with a
framebuffer it completes with status OK, and changes FB and DIRTY by painting those places only. -/
structure PaintsPlaces (i : Instr) (cfg : Config) (on : Bool) (L : Nat → Nat → Prop) : Prop where
  inFb : ∀ a k, L a k → a < cfg.fbSize
  exec_eq : ∀ s : State, s.cfg = cfg → s.ctl.fbValid = true → s.canvas.InFb cfg →
    ∃ d : Canvas, exec i s = .next (finish .ok 0x00 (s.withCanvas d)) ∧
      Paints cfg on L s.canvas d ∧ d.InFb cfg

/-- A command that PLOTs a list of points paints their places. -/
theorem paintsPlaces_of_drawPoints {i : Instr} {cfg : Config} (hl : cfg.Legal) {on : Bool}
    {pts : List (Int × Int)} (hexec : ∀ s : State, s.cfg = cfg → s.ctl.fbValid = true →
      exec i s = .next (drawPoints on pts s)) :
    PaintsPlaces i cfg on (Plotted cfg pts) where
  inFb _ _ h := lt_fbSize_of_plotted hl h
  exec_eq s hcfg hf hs := by
    refine ⟨plotAll cfg on pts s.canvas, ?_, plotAll_paints hl on pts hs.1, plotAll_inFb hl on pts hs⟩
    rw [hexec s hcfg hf, drawPoints, hcfg]

/-- CLEAR paints every place of FB dark. -/
theorem paintsPlaces_clear {cfg : Config} (hl : cfg.Legal) :
    PaintsPlaces .clear cfg false fun a _ => a < cfg.fbSize where
  inFb _ _ h := h
  exec_eq s hcfg hf hs := by
    refine ⟨clearBytes cfg cfg.fbSize s.canvas, ?_, clearBytes_paints hl hs.1 le_rfl, clearBytes_inFb hs⟩
    rw [exec_clear_of_fbValid hf, hcfg]

/-- Every drawing command paints places that its operands and the build decide. -/
theorem exists_paintsPlaces {i : Instr} (hi : isDrawing i = true) {cfg : Config} (hl : cfg.Legal) :
    ∃ on L, PaintsPlaces i cfg on L := by
  cases i with
  | clear => exact ⟨_, _, paintsPlaces_clear hl⟩
  | setPixel | fillRect | drawLine | drawCircle | drawGlyph =>
    exact ⟨_, _, paintsPlaces_of_drawPoints hl fun s _ hf => guarded_legal (cls := .framebuffer) hf _⟩
  | drawText x y scale chars =>
    refine ⟨true, _, paintsPlaces_of_drawPoints hl
      (pts := textPoints cfg x.toInt y.toInt scale.toNat chars) fun s hcfg hf => ?_⟩
    subst hcfg
    exact guarded_legal (cls := .framebuffer) hf _
  | cmdOpen | cmdInit | cmdFlush | cmdClose | readByte | readReg => cases hi

theorem inFb_canvas {s : State} (h : CoreInv s) : s.canvas.InFb s.cfg := ⟨h.fbCanonical, h.fbInRange⟩

/-- Settles O39: the second issue paints places that already hold the value. -/
theorem secondIssueOfADrawingChangesNothing : Obligations.SecondIssueOfADrawingChangesNothing := by
  intro i s hinv hf hi
  obtain ⟨on, L, hplaces⟩ := exists_paintsPlaces hi hinv.build
  obtain ⟨d, hexec, hpaint, hd⟩ := hplaces.exec_eq s rfl hf (inFb_canvas hinv)
  refine ⟨_, hexec, ?_⟩
  obtain ⟨e, hexec', hpaint', he⟩ := hplaces.exec_eq (finish .ok 0x00 (s.withCanvas d)) rfl hf hd
  obtain rfl : e = d := hpaint'.unique hpaint.again he.1 hd.1
  exact hexec'

theorem toInt_eq_toNat_of_nonneg {h : Half} (h0 : 0 ≤ h.toInt) : h.toInt = h.toNat := by
  rw [BitVec.toInt_eq_toNat_cond] at h0 ⊢
  split at h0 <;> omega

/-- Every index of FB is a 16-bit field (R106). -/
theorem toNat_ofNat_of_lt_fbSize {cfg : Config} (hl : cfg.Legal) {i : Nat} (hi : i < cfg.fbSize) :
    (BitVec.ofNat 16 i).toNat = i := by
  have hsize : cfg.fbSize ≤ 128 * 8 := Nat.mul_le_mul hl.2.1 (pages_le_eight hl)
  rw [BitVec.toNat_ofNat, Nat.mod_eq_of_lt (by omega)]

/-- Settles O51: PLOT gives the place of the pixel its value, and READ_BYTE reads that place. -/
theorem setPixelThenReadByteReturnsTheBit : Obligations.SetPixelThenReadByteReturnsTheBit := by
  intro x y on s hinv hf hx0 hx hy0 hy
  have hl := hinv.build
  rw [toInt_eq_toNat_of_nonneg hx0, Nat.cast_lt] at hx
  rw [toInt_eq_toNat_of_nonneg hy0, Nat.cast_lt] at hy
  have hpixel : Plotted s.cfg [(x.toInt, y.toInt)] (pixelIndex s.cfg x.toNat y.toNat)
      (pixelBit y.toNat) := by
    rw [plotted_pixel_iff _ hx hy, ← toInt_eq_toNat_of_nonneg hx0, ← toInt_eq_toNat_of_nonneg hy0]
    exact List.mem_singleton_self _
  have hindex := lt_fbSize_of_plotted hl hpixel
  obtain ⟨hread, -⟩ := readByteReturnsTheByte
  refine ⟨drawPoints on [(x.toInt, y.toInt)] s, _, _, guarded_legal (cls := .framebuffer) hf _,
    hread _ _ hf ?_, rfl, ?_⟩
  · rwa [← pixelIndex, toNat_ofNat_of_lt_fbSize hl hindex]
  · rw [← pixelIndex, toNat_ofNat_of_lt_fbSize hl hindex]
    exact (plotAll_paints hl on _ hinv.fbCanonical).inside _ _ hpixel

end Sys2Proof.Machine
end

section
/-! PROOFS. The invariant of the core (10_state.md), which every step keeps, and the balance of ACQUIREs and
RELEASEs (42_controller.md R190). -/

namespace Sys2Proof.Machine

open Sys2Proof.Safety Sys2Proof.Claims

/-! ## The state after reset -/

/-- Settles O12: R34's values meet each clause, and after reset there is no framebuffer. -/
theorem resetMeetsTheInvariant : Obligations.ResetMeetsTheInvariant := by
  refine ⟨⟨by decide, ⟨.nil, nofun⟩, nofun, BitVec.zero_and, ?status, ?cause, fun _ => ⟨rfl, rfl⟩, nofun,
    nofun⟩, nofun⟩
  case status => simp [statusCodes, State.reset, State.resetOf]
  case cause => simp [fatalCauses, State.reset, State.resetOf]

/-! ## The invariant, update by update -/

theorem code_mem_statusCodes (code : Status) : code.code ∈ statusCodes := by cases code <;> decide

theorem ne_closed_of_fbValid {c : ControllerState} (h : c.fbValid = true) : c ≠ .closed := by
  rintro rfl
  cases h

theorem fbValid_of_initialized_or_streaming {c : ControllerState} (h : c = .initialized ∨ c = .streaming) :
    c.fbValid = true := by
  rcases h with rfl | rfl <;> rfl

theorem OnlySends.ctl_eq {s u : State} (h : OnlySends s u) : u.ctl = s.ctl := by rw [h.eq_update]

section

variable {s : State} (h : CoreInv s)
include h

theorem coreInv_hostIn (rest : List HostInput) : CoreInv { s with hostIn := rest } := { h with }

theorem coreInv_respond (code : Status) (data : Byte) : CoreInv (respond code data s) := { h with }

theorem coreInv_finish (code : Status) (data : Byte) : CoreInv (finish code data s) :=
  { h with statusLegal := code_mem_statusCodes code }

theorem coreInv_illegalPacket (p : List Byte) : CoreInv (illegalPacket p s) := by
  rw [illegalPacket]
  split
  · exact coreInv_respond h _ _
  · exact coreInv_finish h _ _

theorem coreInv_afterRequest (e : TransportEvent) : CoreInv (afterRequest e s) := { h with }

/-- Acknowledged frames clear flags only. -/
theorem coreInv_of_acknowledges {u : State} (hu : Acknowledges s u) : CoreInv u := by
  obtain ⟨hsends, -, hclears⟩ := hu
  have hzero {p : Nat} (hp : dirtyAt s.dirty p = false) : dirtyAt u.dirty p = false :=
    Bool.eq_false_iff.mpr fun hset => Bool.eq_false_iff.mp hp (hclears p hset)
  have hrange : u.dirty &&& pagesMask s.cfg = u.dirty := by
    have hs := (dirtyInRange_iff h.build s.dirty).mp h.dirtyInRange
    exact (dirtyInRange_iff h.build u.dirty).mpr fun p hp => hzero (hs p hp)
  have hidle (hc : s.ctl = .closed) : s.transportHeld = false ∧ u.dirty = 0x00 := by
    obtain ⟨hheld, hdirty⟩ := h.closedIdle hc
    exact ⟨hheld, dirty_ext fun p => by rw [hzero] <;> simp [hdirty, dirtyAt]⟩
  rw [hsends.eq_update]
  exact { h with dirtyInRange := hrange, closedIdle := hidle }

/-- FAILED is entered with the Transport held exactly after a transmission failure (R22, R224). -/
theorem coreInv_enterFailed {code : Status}
    (hcode : (code.code = 0x01 ∧ s.transportHeld = false) ∨ (code.code = 0x02 ∧ s.transportHeld = true)) :
    CoreInv (enterFailed code s) :=
  { h with
    statusLegal := code_mem_statusCodes code
    causeLegal := by
      show code.code ∈ fatalCauses
      rcases hcode with ⟨hc, -⟩ | ⟨hc, -⟩ <;> simp [hc, fatalCauses]
    closedIdle := nofun
    runHeld := nofun
    failedCause := fun _ => hcode }

/-- INIT and FLUSH move between states with a framebuffer. -/
theorem coreInv_ctl {c : ControllerState} (hs : s.ctl.fbValid = true) (hc : c.fbValid = true) :
    CoreInv { s with ctl := c } :=
  { h with
    closedIdle := by rintro rfl; cases hc
    runHeld := fun _ => h.runHeld hs
    failedCause := by rintro rfl; cases hc }

/-- OPEN creates FB all zero and sets the flags below PAGES (R180). -/
theorem coreInv_openGranted : CoreInv (openGranted s) where
  build := h.build
  fbCanonical := ⟨.nil, nofun⟩
  fbInRange := nofun
  dirtyInRange := BitVec.and_self
  statusLegal := code_mem_statusCodes .ok
  causeLegal := by simp [fatalCauses]
  closedIdle := nofun
  runHeld _ := ⟨rfl, rfl⟩
  failedCause := nofun

/-- CLOSED, as CLOSE and a reset enter it: idle, and FB unspecified (R190, R250). -/
theorem coreInv_of_idle {t : State} (hcfg : t.cfg = s.cfg) (hctl : t.ctl = .closed)
    (hheld : t.transportHeld = false) (hdirty : t.dirty = 0x00) {draw : Nat}
    (hfb : t.fb = Memory.unspecified s.cfg draw) (hstatus : t.lastStatus ∈ statusCodes)
    (hcause : t.fatalCause ∈ fatalCauses) : CoreInv t where
  build := hcfg ▸ h.build
  fbCanonical := hfb ▸ ofFn_wf _ _
  fbInRange := by rw [hfb, hcfg]; exact ofFn_lt _ _
  dirtyInRange := by simp [hdirty]
  statusLegal := hstatus
  causeLegal := hcause
  closedIdle _ := ⟨hheld, hdirty⟩
  runHeld hf := by rw [hctl] at hf; cases hf
  failedCause hf := by rw [hctl] at hf; cases hf

/-- A drawing command leaves FB canonical and in range, and sets no reserved flag. -/
theorem coreInv_of_drawing {i : Instr} {t : State} (hi : isDrawing i = true) (hf : s.ctl.fbValid = true)
    (hexec : exec i s = .next t) : CoreInv t := by
  obtain ⟨on, L, hplaces⟩ := exists_paintsPlaces hi h.build
  obtain ⟨d, hexec', hpaint, hwf, hrange⟩ := hplaces.exec_eq s rfl hf (inFb_canvas h)
  obtain rfl : finish .ok 0x00 (s.withCanvas d) = t := Host.Outcome.next.inj (hexec'.symm.trans hexec)
  exact { h with
    fbCanonical := hwf
    fbInRange := hrange
    dirtyInRange := hpaint.dirtyInRange h.build hplaces.inFb h.dirtyInRange
    statusLegal := code_mem_statusCodes .ok
    closedIdle := fun hc => absurd hc (ne_closed_of_fbValid hf) }

end

/-! ## The invariant, step by step -/

/-- A command that is still running has had all its frames acknowledged. -/
theorem Progress.StopsAtFalse.acknowledges {s u : State} {p : Progress} (h : p.StopsAtFalse s)
    (hp : p = .running u) : Acknowledges s u := by
  subst hp
  exact h

/-- Every command keeps the invariant. -/
theorem coreInv_exec {i : Instr} {s t : State} (h : CoreInv s) (hexec : exec i s = .next t) : CoreInv t := by
  obtain ⟨r, ha⟩ := answers_of_exec hexec
  have hfailed (hr : r.status = 0x02) (hf : s.ctl.fbValid = true) : CoreInv t := by
    obtain ⟨rfl, -⟩ | ⟨-, v, f, hv, rfl⟩ := ha.fatal_cases (.inr hr)
    · cases hr
    · refine coreInv_enterFailed (coreInv_afterRequest (coreInv_of_acknowledges h hv) _) (.inr ⟨rfl, ?_⟩)
      rw [afterRequest_transportHeld, hv.sends.transportHeld_eq, (h.runHeld hf).1]
  cases ha with
  | stateError | byteRead | byteOutOfRange => exact coreInv_finish h _ _
  | regRead | regOutOfRange => exact coreInv_respond h _ _
  | opened => exact coreInv_openGranted (coreInv_afterRequest h _)
  | acquireFailed hc =>
    exact coreInv_enterFailed (coreInv_afterRequest h _) (.inl ⟨rfl, (h.closedIdle hc).1⟩)
  | initDone hc hu hs =>
    have hinv := coreInv_of_acknowledges h ((emitCmds_stopsAtFalse initSeq s).acknowledges hu)
    exact coreInv_finish (coreInv_ctl hinv (by rw [hs.ctl_eq, hc]; rfl) rfl) _ _
  | flushDone hc hu hs =>
    have hinv := coreInv_of_acknowledges h ((flushPages_stopsAtFalse _ s).acknowledges hu)
    rw [← hs.ctl_eq] at hc
    exact coreInv_finish (coreInv_ctl hinv (fbValid_of_initialized_or_streaming hc) rfl) _ _
  | initFailed hc => exact hfailed rfl (by rw [hc]; rfl)
  | flushFailed hc => exact hfailed rfl (fbValid_of_initialized_or_streaming hc)
  | closed => exact coreInv_of_idle h rfl rfl rfl rfl rfl (code_mem_statusCodes .ok) h.causeLegal
  | drawn hi hf => exact coreInv_of_drawing h hi hf hexec

/-- Settles O13: waiting keeps the state, a reset makes the core idle, and illegal packets and commands keep the
invariant. -/
theorem stepKeepsTheInvariant : Obligations.StepKeepsTheInvariant := by
  intro s t h hstep
  obtain ⟨-, ⟨-, rfl⟩ | ⟨rest, -, rfl⟩ | ⟨p, rest, e, -, -, rfl⟩ | ⟨p, rest, i, -, -, hexec⟩⟩ :=
    step_cases hstep
  · exact h
  · exact coreInv_of_idle h rfl rfl rfl rfl rfl (by simp [statusCodes]) (by simp [fatalCauses])
  · exact coreInv_illegalPacket (coreInv_hostIn h rest) p
  · exact coreInv_exec (coreInv_hostIn h rest) hexec

/-! ## The balance of ACQUIREs and RELEASEs -/

/-- From `s` to `t` the successful ACQUIREs less the RELEASEs have changed as TRANSPORT_HELD has (R190). -/
def Balanced (s t : State) : Prop :=
  countEvents (.acquire true) t.transport + countEvents .release s.transport + s.transportHeld.toNat =
    countEvents (.acquire true) s.transport + countEvents .release t.transport + t.transportHeld.toNat

theorem Balanced.trans {s u t : State} (h : Balanced s u) (h' : Balanced u t) : Balanced s t := by
  unfold Balanced at *
  omega

/-- Where TRANSPORT_HELD is kept, requests that neither acquire nor release keep the balance. -/
theorem balanced_of_append {s t : State} {log : List TransportEvent} (hheld : t.transportHeld = s.transportHeld)
    (hlog : t.transport = s.transport ++ log) (hacquire : .acquire true ∉ log) (hrelease : .release ∉ log) :
    Balanced s t := by
  simp [Balanced, countEvents, hheld, hlog, List.count_eq_zero.mpr, hacquire, hrelease]

theorem balanced_of_eq {s t : State} (hheld : t.transportHeld = s.transportHeld)
    (hlog : t.transport = s.transport) : Balanced s t :=
  balanced_of_append (log := []) hheld (by simp [hlog]) (by simp) (by simp)

/-- Frames alone keep the balance. -/
theorem Acknowledges.balanced {s u : State} (h : Acknowledges s u) : Balanced s u := by
  obtain ⟨fs, hlog⟩ := h.log
  exact balanced_of_append h.sends.transportHeld_eq hlog (by simp [acknowledged]) (by simp [acknowledged])

/-- Every command keeps the balance: OPEN acquires the Transport where it is not held, CLOSE releases it where
it is. -/
theorem Answers.balanced {s t : State} {i : Instr} {r : Response} (h : Answers s i r t) (hinv : CoreInv s) :
    Balanced s t := by
  have hfailed (hr : r.status = 0x01 ∨ r.status = 0x02) : Balanced s t := by
    obtain ⟨-, rfl⟩ | ⟨-, v, f, hv, rfl⟩ := h.fatal_cases hr
    · exact balanced_of_append rfl rfl (by simp) (by simp)
    · exact hv.balanced.trans (balanced_of_append rfl rfl (by simp) (by simp))
  cases h with
  | stateError | drawn | byteRead | byteOutOfRange | regRead | regOutOfRange => exact balanced_of_eq rfl rfl
  | opened hc => simp [Balanced, countEvents, (hinv.closedIdle hc).1, Nat.add_right_comm]
  | initDone _ hu => exact ((emitCmds_stopsAtFalse initSeq s).acknowledges hu).balanced
  | flushDone _ hu => exact ((flushPages_stopsAtFalse _ s).acknowledges hu).balanced
  | closed => cases hheld : s.transportHeld <;> simp [Balanced, countEvents, hheld, Nat.add_assoc]
  | acquireFailed | initFailed | flushFailed => exact hfailed (by simp)

/-- Settles O20: an illegal packet issues no request, and a command keeps the balance. -/
theorem acquiresAndReleasesBalance : Obligations.AcquiresAndReleasesBalance := by
  intro s t p rest hinv htake hstep
  obtain ⟨r, hout⟩ := packet_returns htake hstep
  rcases packet_cases htake hstep hout with ⟨e, -, -, rfl⟩ | ⟨i, -, ha⟩
  · rw [illegalPacket_eq]
  · exact ha.balanced (coreInv_hostIn hinv rest)

end Sys2Proof.Machine
end

section
/-! PROOFS. What INIT and FLUSH have sent, whatever the Transport answers (42_controller.md R171 to R188), and
what the frames have shown a receiver of the clean pages (10_state.md R25). -/

namespace Sys2Proof.Machine

open Sys2Proof.Safety Sys2Proof.Claims

/-! ## Frames up to the first one answered false -/

/-- From `s` to `u` the frames `fs` were sent and acknowledged; but for flags of DIRTY that is all. -/
structure Sent (fs : List (List Byte)) (s u : State) : Prop where
  sends : OnlySends s u
  log : u.transport = s.transport ++ acknowledged fs

theorem Sent.trans {fs gs : List (List Byte)} {s u v : State} (h : Sent fs s u) (h' : Sent gs u v) :
    Sent (fs ++ gs) s v :=
  ⟨h.sends.trans h'.sends, by simp [h'.log, h.log, acknowledged]⟩

/-- A command that began at `s` with `fs` to send has sent all of them; or it has ended, and has sent the ones
before some frame and that frame, answered false (R171). -/
def Progress.SendsAll (fs : List (List Byte)) (s : State) : Progress → Prop
  | .running u => Sent fs s u
  | .ended u => ∃ before f after v, fs = before ++ f :: after ∧ Sent before s v ∧
      u = enterFailed .transmissionFailure (afterRequest (.frame f false) v)

theorem andThen_sendsAll {fs gs : List (List Byte)} {s : State} {p : Progress} {k : State → Progress}
    (hp : p.SendsAll fs s) (hk : ∀ u, Sent fs s u → (k u).SendsAll gs u) :
    (p.andThen k).SendsAll (fs ++ gs) s := by
  cases p with
  | ended u =>
    obtain ⟨before, f, after, v, rfl, hv, hu⟩ := hp
    exact ⟨before, f, after ++ gs, v, by simp, hv, hu⟩
  | running u =>
    have hrest := hk u hp
    rw [andThen_running]
    cases hu : k u with
    | running w =>
      rw [hu] at hrest
      exact Sent.trans hp hrest
    | ended w =>
      rw [hu] at hrest
      obtain ⟨before, f, after, v, rfl, hv, rfl⟩ := hrest
      exact ⟨fs ++ before, f, after, v, by simp, Sent.trans hp hv, rfl⟩

theorem emit_sendsAll (f : List Byte) (s : State) : (emit f s).SendsAll [f] s := by
  rcases emit_cases f s with ⟨-, he⟩ | ⟨-, he⟩ <;> rw [he]
  · exact ⟨rfl, rfl⟩
  · exact ⟨[], f, [], s, rfl, ⟨.refl s, by simp [acknowledged]⟩, rfl⟩

theorem emitFrames_sendsAll (fs : List (List Byte)) (s : State) : (emitFrames fs s).SendsAll fs s := by
  induction fs generalizing s with
  | nil => exact ⟨.refl s, by simp [acknowledged]⟩
  | cons f fs ih => exact andThen_sendsAll (emit_sendsAll f s) fun u _ => ih u

theorem sendPage_sendsAll (p : Nat) (s : State) : (sendPage p s).SendsAll (pageFrames s p) s := by
  rw [sendPage_eq_emitFrames, ← List.append_nil (pageFrames s p)]
  exact andThen_sendsAll (by simpa using emitFrames_sendsAll (pageFrames s p) s) fun u _ =>
    ⟨rfl, by simp [acknowledged]⟩

/-- The frames of a page depend on the build and FB only. -/
theorem Sent.pageFrames_eq {fs : List (List Byte)} {s u : State} (h : Sent fs s u) :
    pageFrames u = pageFrames s := by
  funext p
  rw [pageFrames, h.sends.cfg_eq, h.sends.fb_eq, pageFrames]

theorem sendPages_sendsAll (ps : List Nat) (s : State) :
    (sendPages ps s).SendsAll (ps.flatMap (pageFrames s)) s := by
  induction ps generalizing s with
  | nil => exact ⟨.refl s, by simp [acknowledged]⟩
  | cons p ps ih =>
    exact andThen_sendsAll (sendPage_sendsAll p s) fun u hu => hu.pageFrames_eq ▸ ih u

/-- A command that sends `fs` and then enters `done` ends in one of the two ways of R171, with FB and
TRANSPORT_HELD as they were. -/
theorem sendsUntilFalse_complete {fs : List (List Byte)} {s : State} {p : Progress} (hp : p.SendsAll fs s)
    (done : ControllerState) :
    SendsUntilFalse s (p.complete fun u => finish .ok 0x00 { u with ctl := done }) fs done ∧
    (p.complete fun u => finish .ok 0x00 { u with ctl := done }).fb = s.fb ∧
    (p.complete fun u => finish .ok 0x00 { u with ctl := done }).transportHeld = s.transportHeld := by
  cases p with
  | running u =>
    obtain ⟨hsends, hlog⟩ := hp
    refine ⟨.inl ⟨hlog, rfl, rfl, hsends.fatalCause_eq, ?_⟩, hsends.fb_eq, hsends.transportHeld_eq⟩
    simp [hsends.hostOut_eq, Status.code]
  | ended u =>
    obtain ⟨before, f, after, v, rfl, ⟨hsends, hlog⟩, rfl⟩ := hp
    refine ⟨.inr ⟨before, f, after, rfl, ?_, rfl, rfl, rfl, ?_⟩, hsends.fb_eq, hsends.transportHeld_eq⟩
    · simp [hlog]
    · simp [hsends.hostOut_eq, Status.code]

/-- FRAMEs leave DIRTY: only SEND_PAGE clears a flag, after its data frame (R186). -/
theorem emitFrames_dirty (fs : List (List Byte)) (s : State) : (emitFrames fs s).state.dirty = s.dirty := by
  induction fs generalizing s with
  | nil => rfl
  | cons f fs ih =>
    rcases emit_cases f s with ⟨-, he⟩ | ⟨-, he⟩ <;> rw [emitFrames, he]
    · exact ih _
    · rfl

theorem complete_dirty (p : Progress) (done : ControllerState) :
    (p.complete fun u => finish .ok 0x00 { u with ctl := done }).dirty = p.state.dirty := by
  cases p <;> rfl

/-- Settles O31: INIT and FLUSH are lists of frames sent in turn. -/
theorem framesStopAtTheFirstFalseAnswer : Obligations.FramesStopAtTheFirstFalseAnswer := by
  refine ⟨fun s hc => ?_, fun s _ hc => ?_⟩
  · obtain ⟨huntil, hfb, hheld⟩ := sendsUntilFalse_complete (emitFrames_sendsAll (initFrames s) s)
      .initialized
    refine ⟨_, exec_cmdInit_of_opening hc, huntil, hfb, ?_, hheld⟩
    rw [complete_dirty, emitFrames_dirty]
  · exact ⟨_, exec_cmdFlush_of_initialized_or_streaming hc,
      sendsUntilFalse_complete (sendPages_sendsAll (sentPages s) s) .streaming⟩

/-! ## The frames of a completed INIT or FLUSH -/

/-- A command that sends frames and has entered another state than FAILED has sent them all. -/
theorem log_eq_of_sendsUntilFalse {s t : State} {fs : List (List Byte)} {done : ControllerState}
    (h : SendsUntilFalse s t fs done) (hc : t.ctl ≠ .failed) :
    t.transport = s.transport ++ acknowledged fs := by
  obtain ⟨hlog, -⟩ | ⟨before, f, after, -, -, hfailed, -⟩ := h
  · exact hlog
  · exact absurd hfailed hc

/-- A page is four frames of 9 + (WIDTH + 2) bytes (R188). -/
theorem length_flatMap_pageFrames (s : State) (ps : List Nat) :
    (ps.flatMap (pageFrames s)).length = 4 * ps.length ∧
    (ps.flatMap (pageFrames s)).flatten.length = (9 + (s.cfg.width + 2)) * ps.length := by
  induction ps with
  | nil => exact ⟨rfl, rfl⟩
  | cons p ps ih =>
    obtain ⟨hframes, hbytes⟩ := ih
    have hpage : (pageFrames s p).length = 4 ∧ (pageFrames s p).flatten.length = 9 + (s.cfg.width + 2) := by
      simp [pageFrames]
      omega
    rw [List.flatMap_cons, List.flatten_append, List.length_append, List.length_append, hframes, hbytes,
      hpage.1, hpage.2, List.length_cons, Nat.mul_succ, Nat.mul_succ]
    omega

/-- Settles O32: a completed command has sent all its frames, and these are counted. -/
theorem frameCountsOfInitAndFlush : Obligations.FrameCountsOfInitAndFlush := by
  obtain ⟨hinit, hflush⟩ := framesStopAtTheFirstFalseAnswer
  refine ⟨fun s t hc hexec ht => ?_, fun s t hinv hc hexec ht => ?_⟩
  · obtain ⟨t', hexec', huntil, -⟩ := hinit s hc
    obtain rfl : t' = t := Host.Outcome.next.inj (hexec'.symm.trans hexec)
    exact ⟨initFrames s, log_eq_of_sendsUntilFalse huntil (by simp [ht]), rfl, rfl⟩
  · obtain ⟨t', hexec', huntil, -⟩ := hflush s hinv hc
    obtain rfl : t' = t := Host.Outcome.next.inj (hexec'.symm.trans hexec)
    exact ⟨flushFrames s, log_eq_of_sendsUntilFalse huntil (by simp [ht]),
      length_flatMap_pageFrames s (sentPages s)⟩

/-! ## What the frames have shown a receiver -/

theorem mirror_append (log log' : List TransportEvent) :
    mirror (log ++ log') = log'.foldl Mirror.after (mirror log) := List.foldl_append

/-- A command frame selects a page if its byte is a page select, and shows nothing (R80, R85). -/
theorem after_cmdFrame (a b : Byte) (m : Mirror) : m.after (.frame [a, 0x00, b] true) =
    if 0xB0 ≤ b.toNat ∧ b.toNat ≤ 0xB7 then { m with selected := some (b.toNat - 0xB0) } else m := rfl

theorem after_pageSelect (a : Byte) {p : Nat} (hp : p < 8) (m : Mirror) :
    m.after (.frame [a, 0x00, 0xB0 + BitVec.ofNat 8 p] true) = { m with selected := some p } := by
  have hselect : (0xB0 + BitVec.ofNat 8 p : Byte).toNat = 0xB0 + p := by
    rw [BitVec.toNat_add, BitVec.toNat_ofNat]
    simp
    omega
  rw [after_cmdFrame, hselect, if_pos (by omega), Nat.add_sub_cancel_left]

/-- A data frame shows the selected page (R81, R186). -/
theorem after_dataFrame {m : Mirror} {p : Nat} (h : m.selected = some p) (a : Byte) (d : List Byte) :
    m.after (.frame ([a, 0x40] ++ d) true) =
      { m with shown := fun q => if q = p then some d else m.shown q } := by
  simp [Mirror.after, h]

/-- The four frames of page p show the receiver the bytes of page p (R85, R186). -/
theorem after_pageFrames (s : State) {p : Nat} (hp : p < 8) (m : Mirror) :
    (acknowledged (pageFrames s p)).foldl Mirror.after m =
      { selected := some p
        shown := fun q => if q = p then some (pageBytes s.cfg s.fb p) else m.shown q } := by
  simp only [acknowledged, pageFrames, List.map_cons, List.map_nil, List.foldl_cons, List.foldl_nil]
  rw [after_pageSelect _ hp, after_cmdFrame _ 0x00, if_neg (by decide), after_cmdFrame _ 0x10,
    if_neg (by decide), after_dataFrame rfl]
  rfl
theorem shown_after_cmdFrames (c : Config) (bs : List Byte) (m : Mirror) :
    ((acknowledged (bs.map (cmdFrame c))).foldl Mirror.after m).shown = m.shown := by
  induction bs generalizing m with
  | nil => rfl
  | cons b bs ih =>
    refine (ih _).trans ?_
    rw [cmdFrame, after_cmdFrame]
    split <;> rfl

/-- Each page whose flag is clear holds what the receiver was last shown of it (R25). -/
def CleanShown (s : State) : Prop :=
  ∀ p < s.cfg.pages, dirtyAt s.dirty p = false →
    (mirror s.transport).shown p = some (pageBytes s.cfg s.fb p)

/-- Sending pages keeps it: the flag of a page is cleared once the page is shown. -/
theorem sendPages_cleanShown {ps : List Nat} {s u : State} (hps : ∀ p ∈ ps, p < 8) (h : CleanShown s)
    (hu : sendPages ps s = .running u) : CleanShown u := by
  induction ps generalizing s with
  | nil => cases hu; exact h
  | cons p ps ih =>
    obtain ⟨hp, hps⟩ := List.forall_mem_cons.mp hps
    rw [sendPages] at hu
    have hpage := sendPage_sendsAll p s
    cases hv : sendPage p s with
    | ended v => rw [hv] at hu; cases hu
    | running v =>
      rw [hv] at hu hpage
      obtain ⟨hsends, hlog⟩ := hpage
      refine ih hps (fun q hq hclean => ?_) hu
      rw [hsends.cfg_eq] at hq
      rw [(frame_of_sendPage_running hv).2, clearDirty_at] at hclean
      rw [hlog, mirror_append, after_pageFrames s hp, hsends.cfg_eq, hsends.fb_eq]
      by_cases hqp : q = p
      · rw [hqp]
        exact if_pos rfl
      · exact (if_neg hqp).trans (h q hq (by simpa [hqp] using hclean))

/-- A completed INIT sends command frames only, so it shows nothing and clears no flag. -/
theorem emitCmds_cleanShown {bs : List Byte} {s u : State} (h : CleanShown s)
    (hu : emitCmds bs s = .running u) : CleanShown u := by
  rw [emitCmds_eq_emitFrames] at hu
  have hall := emitFrames_sendsAll (bs.map (cmdFrame s.cfg)) s
  have hdirty := emitFrames_dirty (bs.map (cmdFrame s.cfg)) s
  rw [hu] at hall hdirty
  obtain ⟨hsends, hlog⟩ := hall
  intro p hp hclean
  rw [hsends.cfg_eq] at hp
  rw [hlog, mirror_append, shown_after_cmdFrames, hsends.cfg_eq, hsends.fb_eq]
  exact h p hp (hdirty ▸ hclean)

theorem flushPages_cleanShown {s u : State} (hl : s.cfg.Legal) (h : CleanShown s)
    (hu : flushPages (List.range s.cfg.pages) s = .running u) : CleanShown u := by
  rw [flushPages_eq_sendPages List.nodup_range, ← sentPages_eq] at hu
  refine sendPages_cleanShown (fun p hp => ?_) h hu
  exact Nat.lt_of_lt_of_le (List.mem_range.mp (List.mem_filter.mp hp).1) (pages_le_eight hl)

/-- Drawing sets the flag of each page it changes. -/
theorem drawing_cleanShown {i : Instr} {s t : State} (hi : isDrawing i = true) (hinv : CoreInv s)
    (hf : s.ctl.fbValid = true) (h : CleanShown s) (hexec : exec i s = .next t) : CleanShown t := by
  obtain ⟨on, L, hplaces⟩ := exists_paintsPlaces hi hinv.build
  obtain ⟨d, hexec', hpaint, -⟩ := hplaces.exec_eq s rfl hf (inFb_canvas hinv)
  obtain rfl : finish .ok 0x00 (s.withCanvas d) = t := Host.Outcome.next.inj (hexec'.symm.trans hexec)
  intro p hp hclean
  obtain ⟨hclean', hbytes⟩ := hpaint.clean hclean
  exact (h p hp hclean').trans (congrArg some hbytes.symm)

/-- Every command keeps the clean pages as shown. -/
theorem cleanPagesShown_exec {i : Instr} {s t : State} (hinv : CoreInv s) (h : CleanPagesShown s)
    (hexec : exec i s = .next t) : CleanPagesShown t := by
  obtain ⟨r, ha⟩ := answers_of_exec hexec
  cases ha with
  | stateError | byteRead | byteOutOfRange | regRead | regOutOfRange => exact h
  | acquireFailed | initFailed | flushFailed | closed => exact nofun
  | opened =>
    intro _ p hp hclean
    have hset : dirtyAt (allDirty s.cfg) p = true :=
      (pagesMask_at hinv.build p).trans (decide_eq_true hp)
    cases hclean.symm.trans hset
  | initDone hc hu =>
    have hshown := emitCmds_cleanShown (h (by rw [hc]; rfl)) hu
    exact fun _ => hshown
  | flushDone hc hu =>
    have hshown := flushPages_cleanShown hinv.build (h (fbValid_of_initialized_or_streaming hc)) hu
    exact fun _ => hshown
  | drawn hi hf => exact fun _ => drawing_cleanShown hi hinv hf (h hf) hexec

/-- Settles O14: a reset leaves no framebuffer, and whatever else a step takes keeps the clean pages as shown. -/
theorem stepKeepsCleanPagesAsShown : Obligations.StepKeepsCleanPagesAsShown := by
  intro s t hinv h hstep
  obtain ⟨-, ⟨-, rfl⟩ | ⟨rest, -, rfl⟩ | ⟨p, rest, e, -, -, rfl⟩ | ⟨p, rest, i, -, -, hexec⟩⟩ :=
    step_cases hstep
  · exact h
  · exact nofun
  · rw [illegalPacket_eq]
    exact h
  · exact cleanPagesShown_exec (coreInv_hostIn hinv rest) h hexec

end Sys2Proof.Machine
end

section
/-! PROOFS. The points of the rasterizer commands as lists (41_rasterizer.md R131 to R136, 70_reset_and_hazards.md
R260): the walk of a line, the text as glyphs, blocks that never overlap, and how many points there are. -/

namespace Sys2Proof.Machine

open Sys2Proof.Safety Sys2Proof.Claims

/-! ## The walk of a line -/

section

variable {dx dy sx sy x1 y1 err x y : Int} {pts : List (Int × Int)}

/-- R130's loop plots first the point it stands on. -/
theorem lineRun_head? (h : LineRun dx dy sx sy x1 y1 err x y pts) : pts.head? = some (x, y) := by
  cases h <;> rfl

/-- R130's loop plots the endpoint last. -/
theorem lineRun_getLast? (h : LineRun dx dy sx sy x1 y1 err x y pts) : pts.getLast? = some (x1, y1) := by
  induction h with
  | atEnd err => rfl
  | advance _ _ _ _ run ih =>
    rw [List.getLast?_cons, ih]
    rfl

/-- Two runs of R130's loop from the same point plot the same points. -/
theorem lineRun_unique {pts' : List (Int × Int)} (h : LineRun dx dy sx sy x1 y1 err x y pts)
    (h' : LineRun dx dy sx sy x1 y1 err x y pts') : pts = pts' :=
  (lineLoop_eq_of_lineRun h (le_max_left _ _)).symm.trans (lineLoop_eq_of_lineRun h' (le_max_right _ _))

/-- One iteration of R130's loop: along each axis the point stays or moves by the axis's step, and it does move. -/
def LineStep (sx sy : Int) (p q : Int × Int) : Prop :=
  (q.1 = p.1 ∨ q.1 = p.1 + sx) ∧ (q.2 = p.2 ∨ q.2 = p.2 + sy) ∧ q ≠ p

/-- If not both conditions of R130's loop can fail at once, each point is one step from the one before. -/
theorem lineRun_isChain (hx : sx ≠ 0) (hy : sy ≠ 0) (hd : 0 < dx + dy)
    (h : LineRun dx dy sx sy x1 y1 err x y pts) : pts.IsChain (LineStep sx sy) := by
  induction h with
  | atEnd err => exact .singleton _
  | @advance err x y e2 errA errB xA yB rest _ he2 stepX stepY run ih =>
    refine List.isChain_cons.mpr ⟨fun q hq => ?_, ih⟩
    obtain rfl : (xA, yB) = q := Option.some.inj ((lineRun_head? run).symm.trans hq)
    split_ifs at stepX stepY <;> simp [LineStep, stepX, stepY, hx, hy]
    omega

end

/-- How far a point has come along both axes in the directions of a line. -/
def lineProgress (sx sy : Int) (p : Int × Int) : Int := sx * p.1 + sy * p.2

theorem LineStep.progress_lt {sx sy : Int} (hx : sx = 1 ∨ sx = -1) (hy : sy = 1 ∨ sy = -1) {p q : Int × Int}
    (h : LineStep sx sy p q) : lineProgress sx sy p < lineProgress sx sy q := by
  obtain ⟨px, py⟩ := p
  obtain ⟨qx, qy⟩ := q
  obtain ⟨hqx, hqy, hne⟩ := h
  simp only [ne_eq, Prod.mk.injEq] at hqx hqy hne
  unfold lineProgress
  rcases hx with rfl | rfl <;> rcases hy with rfl | rfl <;> omega

/-- A walk in the directions of a line never returns to a point. -/
theorem nodup_of_isChain_lineStep {sx sy : Int} (hx : sx = 1 ∨ sx = -1) (hy : sy = 1 ∨ sy = -1)
    {pts : List (Int × Int)} (h : pts.IsChain (LineStep sx sy)) : pts.Nodup := by
  have hprogress : (pts.map (lineProgress sx sy)).IsChain (· < ·) :=
    List.isChain_map_of_isChain _ (fun _ _ hstep => hstep.progress_lt hx hy) h
  exact .of_map _ (List.isChain_iff_pairwise.mp hprogress).nodup

/-- The points of R130's loop are a walk: where the line is a single point there is no step to take. -/
theorem lineRun_walks {x0 y0 x1 y1 sx sy : Int} {pts : List (Int × Int)} (hx : sx ≠ 0) (hy : sy ≠ 0)
    (h : LineRun |x1 - x0| |y1 - y0| sx sy x1 y1 (|x1 - x0| - |y1 - y0|) x0 y0 pts) :
    pts.IsChain (LineStep sx sy) := by
  by_cases hpoint : x0 = x1 ∧ y0 = y1
  · cases h with
    | atEnd => exact .singleton _
    | advance hne => exact absurd hpoint hne
  · refine lineRun_isChain hx hy ?_ h
    rcases not_and_or.mp hpoint with hne | hne
    · exact Int.add_pos_of_pos_of_nonneg (abs_pos.mpr (by omega)) (abs_nonneg _)
    · exact Int.add_pos_of_nonneg_of_pos (abs_nonneg _) (abs_pos.mpr (by omega))

/-- Settles O44: the number of points is that of the run R131 counts, the rest is told by the walk. -/
theorem lineVisitsEachPointOnce : Obligations.LineVisitsEachPointOnce := by
  intro x0 y0 x1 y1 pts h
  have hx := direction_eq x0 x1
  have hy := direction_eq y0 y1
  have hwalk := lineRun_walks (by omega) (by omega) h
  refine ⟨?_, nodup_of_isChain_lineStep hx hy hwalk, lineRun_head? h, lineRun_getLast? h,
    hwalk.imp fun _ _ hstep => ⟨hstep.1, hstep.2.1⟩⟩
  obtain ⟨pts', h', hlen⟩ := exists_lineRun x0 y0 x1 y1
  rw [lineRun_unique h h', hlen]
  push_cast [Int.natCast_natAbs]
  rfl

/-! ## The text as glyphs -/

/-- A glyph is decided by the columns it has. -/
theorem glyphBits_congr {n : Nat} {f g : Nat → Byte} (h : ∀ c < n, f c = g c) :
    glyphBits n f = glyphBits n g := by
  refine List.filter_congr fun p hp => ?_
  obtain ⟨c, hc, hp⟩ := List.mem_flatMap.mp hp
  obtain ⟨k, -, rfl⟩ := List.mem_map.mp hp
  rw [h c (List.mem_range.mp hc)]

/-- At scale 1 the blocks of a character are the points of its glyph (R135). -/
theorem charPoints_one (c : Config) (ox y : Int) (ch : Byte) :
    charPoints c ox y 1 ch =
      glyphPoints ox y ((List.range c.glyphWidth.toNat).map (c.fontColumn ch)) := by
  have hblock (x y : Int) : blockPoints x y 1 = [(x, y)] := by simp [blockPoints]
  have hbits : glyphBits c.glyphWidth.toNat (c.fontColumn ch) =
      glyphBits c.glyphWidth.toNat
        fun k => ((List.range c.glyphWidth.toNat).map (c.fontColumn ch)).getD k 0x00 :=
    glyphBits_congr fun k hk => by simp [hk]
  simp only [charPoints, glyphPoints, hblock, List.length_map, List.length_range, ← hbits, Nat.mul_one,
    ← List.map_eq_flatMap]

/-- Settles O48: the characters behind the first start one advance further on. -/
theorem textAtScaleOneIsGlyphAfterGlyph : Obligations.TextAtScaleOneIsGlyphAfterGlyph := by
  intro c x y chars
  induction chars generalizing x with
  | nil => rfl
  | cons ch rest ih =>
    have hnext (n : Nat) : x + textAdvance c 1 + n * (c.glyphWidth.toNat + c.textSpacing.toNat) =
        x + (n + 1 : Nat) * (c.glyphWidth.toNat + c.textSpacing.toNat) := by
      simp only [textAdvance]
      push_cast
      ring
    rw [textPoints, ih, charPoints_one, List.zipIdx_cons', List.flatMap_cons, List.flatMap_map]
    congr 1
    · simp
    · exact List.flatMap_congr fun p _ => congrArg (glyphPoints · y _) (hnext p.2)

/-! ## Blocks never overlap -/

/-- Lists whose members tell which of the lists they stand in have no member in common. -/
theorem nodup_flatMap_of_key {α β : Type} {l : List α} {f : α → List β} (key : β → α) (hl : l.Nodup)
    (hf : ∀ a, (f a).Nodup) (hkey : ∀ a, ∀ b ∈ f a, key b = a) : (l.flatMap f).Nodup :=
  List.nodup_flatMap.mpr ⟨fun a _ => hf a,
    hl.imp fun hne b hb hb' => hne ((hkey _ b hb).symm.trans (hkey _ b hb'))⟩

theorem nodup_glyphBits (n : Nat) (col : Nat → Byte) : (glyphBits n col).Nodup :=
  .filter _ (List.nodup_range.product List.nodup_range)

theorem nodup_blockPoints (x y : Int) (scale : Nat) : (blockPoints x y scale).Nodup := by
  refine nodup_flatMap_of_key (fun p => (p.1 - x).toNat) List.nodup_range (fun a => ?_) fun a p hp => ?_
  · exact List.nodup_range.map fun b b' h => by simpa using h
  · obtain ⟨b, -, rfl⟩ := List.mem_map.mp hp
    simp

/-- The multiple of `scale` that a block starts at is told by any coordinate inside the block. -/
theorem toNat_ediv_eq {v scale : Int} {c : Nat} (hlow : c * scale ≤ v) (hhigh : v < c * scale + scale) :
    (v / scale).toNat = c := by
  have hscale : 0 < scale := by omega
  have hle : (c : Int) ≤ v / scale := (Int.le_ediv_iff_mul_le hscale).mpr hlow
  have hlt : v / scale < c + 1 := (Int.ediv_lt_iff_lt_mul hscale).mpr (by rwa [add_one_mul])
  omega

/-- The blocks of one character never overlap (R136). -/
theorem nodup_charPoints (c : Config) (ox y : Int) (scale : Nat) (ch : Byte) :
    (charPoints c ox y scale ch).Nodup := by
  refine nodup_flatMap_of_key (fun p => (((p.1 - ox) / scale).toNat, ((p.2 - y) / scale).toNat))
    (nodup_glyphBits _ _) (fun _ => nodup_blockPoints _ _ _) fun ⟨column, k⟩ ⟨px, py⟩ hp => ?_
  obtain ⟨hx, hy⟩ := mem_blockPoints.mp hp
  push_cast at hx hy
  exact Prod.ext (toNat_ediv_eq (c := column) (by omega) (by omega))
    (toNat_ediv_eq (c := k) (by omega) (by omega))

/-- A character lies within GLYPH_WIDTH*scale columns of its corner. -/
theorem column_of_mem_charPoints {c : Config} {ox y : Int} {scale : Nat} {ch : Byte} {p : Int × Int}
    (hp : p ∈ charPoints c ox y scale ch) : ox ≤ p.1 ∧ p.1 < ox + (c.glyphWidth.toNat * scale : Nat) := by
  obtain ⟨column, k, hcolumn, -, -, ⟨hlow, hhigh⟩, -⟩ := mem_charPoints.mp hp
  have hlast : (column + 1) * scale ≤ c.glyphWidth.toNat * scale := Nat.mul_le_mul_right scale hcolumn
  zify at hlast
  refine ⟨?_, ?_⟩
  · have : (0 : Int) ≤ column * scale := by positivity
    omega
  · push_cast
    omega

/-- A text lies right of its corner. -/
theorem column_of_mem_textPoints {c : Config} {x y : Int} {scale : Nat} {chars : List Byte} {p : Int × Int}
    (hp : p ∈ textPoints c x y scale chars) : x ≤ p.1 := by
  obtain ⟨n, ch, -, hp⟩ := mem_textPoints.mp hp
  have hcolumn := (column_of_mem_charPoints hp).1
  have : (0 : Int) ≤ n * textAdvance c scale := by positivity
  omega

/-- Settles O49: a character ends before the next one starts, so the characters never overlap either. -/
theorem textBlocksNeverOverlap : Obligations.TextBlocksNeverOverlap := by
  intro c x y scale chars _
  induction chars generalizing x with
  | nil => exact .nil
  | cons ch rest ih =>
    refine List.nodup_append'.mpr ⟨nodup_charPoints c x y scale ch, ih _, fun p hp hp' => ?_⟩
    have hfirst := (column_of_mem_charPoints hp).2
    have hrest := column_of_mem_textPoints hp'
    rw [textAdvance] at hrest
    push_cast at hfirst hrest
    omega

/-! ## How many points there are -/

theorem length_intRange (lo hi : Int) : (intRange lo hi).length = (hi - lo).toNat := by simp [intRange]

/-- Rows of equal length. -/
theorem length_flatMap_const {α β : Type} {l : List α} {f : α → List β} {n : Nat}
    (hf : ∀ a, (f a).length = n) : (l.flatMap f).length = l.length * n := by
  simp [List.length_flatMap, hf]

theorem length_rectPoints (x y w h : Int) : (rectPoints x y w h).length = w.toNat * h.toNat := by
  rw [rectPoints, length_flatMap_const fun _ => List.length_map _, length_intRange, length_intRange, sub_zero,
    sub_zero, Nat.mul_comm]

theorem length_circleCells (r : Int) :
    (circleCells r).length = if 0 ≤ r then (2 * r.toNat + 1) ^ 2 else 0 := by
  rw [circleCells, length_flatMap_const fun _ => List.length_map _, length_intRange]
  split
  next hr => rw [show (r + 1 - -r).toNat = 2 * r.toNat + 1 by omega, sq]
  next hr => rw [show (r + 1 - -r).toNat = 0 by omega]

theorem length_lineLoop_le (dx dy sx sy x1 y1 : Int) (fuel : Nat) (err x y : Int) :
    (lineLoop dx dy sx sy x1 y1 fuel err x y).length ≤ fuel := by
  induction fuel generalizing err x y with
  | zero => rfl
  | succ fuel ih =>
    rw [lineLoop, List.length_cons]
    split
    · simp
    · exact Nat.succ_le_succ (ih _ _ _)

theorem length_glyphBits_le (n : Nat) (col : Nat → Byte) : (glyphBits n col).length ≤ n * 8 := by
  refine (List.length_filter_le _ _).trans ?_
  rw [length_flatMap_const fun _ => List.length_map _, List.length_range, List.length_range]

theorem length_charPoints_le (c : Config) (ox y : Int) (scale : Nat) (ch : Byte) :
    (charPoints c ox y scale ch).length ≤ c.glyphWidth.toNat * 8 * scale ^ 2 := by
  have hblock (x y : Int) : (blockPoints x y scale).length = scale ^ 2 := by
    rw [blockPoints, length_flatMap_const fun _ => List.length_map _, List.length_range, sq]
  rw [charPoints, length_flatMap_const fun _ => hblock _ _]
  exact Nat.mul_le_mul_right _ (length_glyphBits_le _ _)

theorem length_textPoints_le (c : Config) (x y : Int) (scale : Nat) (chars : List Byte) :
    (textPoints c x y scale chars).length ≤ chars.length * (c.glyphWidth.toNat * 8 * scale ^ 2) := by
  induction chars generalizing x with
  | nil => simp [textPoints]
  | cons ch rest ih =>
    rw [textPoints, List.length_append, List.length_cons, Nat.succ_mul, Nat.add_comm]
    exact Nat.add_le_add (ih _) (length_charPoints_le c x y scale ch)

/-- Settles O52: the points are counted loop by loop. -/
theorem drawingLoopsAreBounded : Obligations.DrawingLoopsAreBounded := by
  refine ⟨length_rectPoints, length_circleCells, fun x0 y0 x1 y1 => length_lineLoop_le _ _ _ _ _ _ _ _ _ _,
    fun x y cols => ?_, fun c x y scale chars => ?_⟩
  · rw [glyphPoints, List.length_map, Nat.mul_comm]
    exact length_glyphBits_le _ _
  · simpa only [Nat.mul_assoc] using length_textPoints_le c x y scale chars

/-! ## The assembler -/

/-- Settles O53: each text is read character by character. -/
theorem assemblerWritesThePacketsOfTheTable : Obligations.AssemblerWritesThePacketsOfTheTable := by
  unfold Obligations.AssemblerWritesThePacketsOfTheTable
  decide

end Sys2Proof.Machine
end
